-- ==== Sys2Proof/Word.lean ====
section
/-! DEFINITION. The word and byte types of the register window (spec/20_memory.md rules R62, R68). -/

namespace Sys2Proof

/-- A 32-bit word: the only access width of the window (rule R69) and the width of a command (rule R90). -/
abbrev Word := BitVec 32

/-- One byte lane of a word (rule R68). -/
abbrev Byte := BitVec 8

end Sys2Proof
end

