-- ==== Sys2Proof/Syntax.lean ====
section
/-! DEFINITION. The command set (spec/30_encoding.md rules R90 to R99): register selectors, the fifteen commands, the raw
fields of format `C`, and the reasons a word is illegal. -/

namespace Sys2Proof

/-- A selector that names a point register, `P0` to `P3` (rule R91). -/
inductive PReg where
  | p0 | p1 | p2 | p3
  deriving DecidableEq, Repr

/-- A selector that names a field register, `F0` to `F3` (rule R91). -/
inductive FReg where
  | f0 | f1 | f2 | f3
  deriving DecidableEq, Repr

/-- The commands of rule R93, one constructor per row of spec/opcode_table.json, operands in the order destination,
first source, second source (rule R97). A selector above 3 cannot be written: it is no command (rule R94). -/
inductive Instr where
  | nop
  | dominit
  | pldg (rd : PReg)
  | peq (ra rb : PReg)
  | psxdy (ra rb : PReg)
  | pisid (ra : PReg)
  | pneg (rd ra : PReg)
  | fred (rd ra : FReg)
  | fneg (rd ra : FReg)
  | fcmp (ra rb : FReg)
  | pred (rd ra : PReg)
  | finv (rd ra : FReg)
  | padd (rd ra rb : PReg)
  | pdbl (rd ra : PReg)
  | pmul (rd ra : PReg)
  deriving DecidableEq, Repr

/-- The fields of the one format, `C` (rule R90). -/
structure Fields where
  op : BitVec 8
  rd : BitVec 4
  ra : BitVec 4
  rb : BitVec 4
  z  : BitVec 12
  deriving DecidableEq, Repr

/-- Why a command word is illegal: the four causes of rule R94. All four complete with `IllegalCommand`. -/
inductive Illegal where
  /-- `OP` is not one of the fifteen values of rule R93. -/
  | unassignedOpcode
  /-- `Z` is not 0. -/
  | reservedBits
  /-- A selector field the command does not use is not 0. -/
  | unusedSelector
  /-- A used selector field is above 3. -/
  | selectorAbove3
  deriving DecidableEq, Repr

end Sys2Proof
end

