-- ==== Sys2Proof/Decode.lean ====
section
/-! DEFINITION. The decoder and the encoder of command words (spec/30_encoding.md rules R90 to R98). Decoding is total on
all 2^32 words and depends on no state (rules R94, R96). -/

namespace Sys2Proof

/-! ## Fields -/

/-- Rule R90: `OP` 31:24, `RD` 23:20, `RA` 19:16, `RB` 15:12, `Z` 11:0. -/
def fieldsOf (w : Word) : Fields where
  op := w.extractLsb' 24 8
  rd := w.extractLsb' 20 4
  ra := w.extractLsb' 16 4
  rb := w.extractLsb' 12 4
  z  := w.extractLsb' 0 12

/-- The word whose fields these are (rule R90). -/
def Fields.word (f : Fields) : Word := f.op ++ f.rd ++ f.ra ++ f.rb ++ f.z

/-- Rule R91: the values 0 to 3 name `P0` to `P3`; 4 to 15 are illegal. -/
def pSelector (b : BitVec 4) : Except Illegal PReg :=
  if b = 0#4 then .ok .p0 else if b = 1#4 then .ok .p1 else if b = 2#4 then .ok .p2
  else if b = 3#4 then .ok .p3 else .error .selectorAbove3

/-- Rule R91: the values 0 to 3 name `F0` to `F3`; 4 to 15 are illegal. -/
def fSelector (b : BitVec 4) : Except Illegal FReg :=
  if b = 0#4 then .ok .f0 else if b = 1#4 then .ok .f1 else if b = 2#4 then .ok .f2
  else if b = 3#4 then .ok .f3 else .error .selectorAbove3

def PReg.number : PReg → Nat
  | .p0 => 0 | .p1 => 1 | .p2 => 2 | .p3 => 3

def FReg.number : FReg → Nat
  | .f0 => 0 | .f1 => 1 | .f2 => 2 | .f3 => 3

def PReg.selector (r : PReg) : BitVec 4 := BitVec.ofNat 4 r.number

def FReg.selector (r : FReg) : BitVec 4 := BitVec.ofNat 4 r.number

/-- Rule R91: a field the command does not use must be 0. -/
def unused (b : BitVec 4) : Except Illegal Unit :=
  if b = 0#4 then .ok () else .error .unusedSelector

/-- Rule R90: `Z` must be 0. -/
def reservedZero (f : Fields) : Except Illegal Unit :=
  if f.z = 0#12 then .ok () else .error .reservedBits

/-! ## The operand shapes of rule R93 -/

def noOperands (f : Fields) (i : Instr) : Except Illegal Instr := do
  reservedZero f; unused f.rd; unused f.ra; unused f.rb; .ok i

def destP (f : Fields) (c : PReg → Instr) : Except Illegal Instr := do
  reservedZero f; unused f.ra; unused f.rb
  let d ← pSelector f.rd
  .ok (c d)

def srcP (f : Fields) (c : PReg → Instr) : Except Illegal Instr := do
  reservedZero f; unused f.rd; unused f.rb
  let a ← pSelector f.ra
  .ok (c a)

def srcPP (f : Fields) (c : PReg → PReg → Instr) : Except Illegal Instr := do
  reservedZero f; unused f.rd
  let a ← pSelector f.ra
  let b ← pSelector f.rb
  .ok (c a b)

def srcFF (f : Fields) (c : FReg → FReg → Instr) : Except Illegal Instr := do
  reservedZero f; unused f.rd
  let a ← fSelector f.ra
  let b ← fSelector f.rb
  .ok (c a b)

def destPSrcP (f : Fields) (c : PReg → PReg → Instr) : Except Illegal Instr := do
  reservedZero f; unused f.rb
  let d ← pSelector f.rd
  let a ← pSelector f.ra
  .ok (c d a)

def destFSrcF (f : Fields) (c : FReg → FReg → Instr) : Except Illegal Instr := do
  reservedZero f; unused f.rb
  let d ← fSelector f.rd
  let a ← fSelector f.ra
  .ok (c d a)

def destPSrcPP (f : Fields) (c : PReg → PReg → PReg → Instr) : Except Illegal Instr := do
  reservedZero f
  let d ← pSelector f.rd
  let a ← pSelector f.ra
  let b ← pSelector f.rb
  .ok (c d a b)

/-! ## The decoder -/

/-- Rule R93: `OP` selects the command, the command its operand shape. -/
def decodeFields (f : Fields) : Except Illegal Instr :=
  match f.op with
  | 0x00#8 => noOperands f .nop
  | 0x01#8 => noOperands f .dominit
  | 0x02#8 => destP f .pldg
  | 0x10#8 => srcPP f .peq
  | 0x11#8 => srcPP f .psxdy
  | 0x12#8 => srcP f .pisid
  | 0x13#8 => destPSrcP f .pneg
  | 0x18#8 => destFSrcF f .fred
  | 0x19#8 => destFSrcF f .fneg
  | 0x1A#8 => srcFF f .fcmp
  | 0x1B#8 => destPSrcP f .pred
  | 0x20#8 => destFSrcF f .finv
  | 0x30#8 => destPSrcPP f .padd
  | 0x31#8 => destPSrcP f .pdbl
  | 0x40#8 => destPSrcP f .pmul
  | _ => .error .unassignedOpcode

/-- Rule R94: every word is exactly one command or illegal. -/
def decode (w : Word) : Except Illegal Instr := decodeFields (fieldsOf w)

/-! ## The encoder -/

/-- The fields of a command, unused selectors and `Z` 0 (rules R93, R98). -/
def Instr.fields : Instr → Fields
  | .nop => ⟨0x00#8, 0#4, 0#4, 0#4, 0#12⟩
  | .dominit => ⟨0x01#8, 0#4, 0#4, 0#4, 0#12⟩
  | .pldg d => ⟨0x02#8, d.selector, 0#4, 0#4, 0#12⟩
  | .peq a b => ⟨0x10#8, 0#4, a.selector, b.selector, 0#12⟩
  | .psxdy a b => ⟨0x11#8, 0#4, a.selector, b.selector, 0#12⟩
  | .pisid a => ⟨0x12#8, 0#4, a.selector, 0#4, 0#12⟩
  | .pneg d a => ⟨0x13#8, d.selector, a.selector, 0#4, 0#12⟩
  | .fred d a => ⟨0x18#8, d.selector, a.selector, 0#4, 0#12⟩
  | .fneg d a => ⟨0x19#8, d.selector, a.selector, 0#4, 0#12⟩
  | .fcmp a b => ⟨0x1A#8, 0#4, a.selector, b.selector, 0#12⟩
  | .pred d a => ⟨0x1B#8, d.selector, a.selector, 0#4, 0#12⟩
  | .finv d a => ⟨0x20#8, d.selector, a.selector, 0#4, 0#12⟩
  | .padd d a b => ⟨0x30#8, d.selector, a.selector, b.selector, 0#12⟩
  | .pdbl d a => ⟨0x31#8, d.selector, a.selector, 0#4, 0#12⟩
  | .pmul d a => ⟨0x40#8, d.selector, a.selector, 0#4, 0#12⟩

/-- The word of a command (rule R98). -/
def encode (i : Instr) : Word := i.fields.word

/-! ## Words as spec/opcode_table.json numbers them -/

/-- The command word whose low `nbits` bits are those of `w` and whose other bits are 0. A command is one 32-bit
word (rule R90), so bit 0 of the table is bit 0 of the word. -/
def tableWord (nbits w : Nat) : Word := BitVec.ofNat 32 (w % 2 ^ nbits)

/-- What the decoder reads from the table's numbering of a word. A command has 32 bits and no more (rule R90). -/
def decodeTableWord (nbits w : Nat) : Option Instr :=
  if nbits ≤ 32 then
    match decode (tableWord nbits w) with
    | .ok i => some i
    | .error _ => none
  else none

end Sys2Proof
end

