-- ==== Sys2Proof/Config.lean ====
section
/-! DEFINITION. What is fixed per instance (spec/00_scope.md rules R4 to R6) and the constants of interface version 1.0.
No free value stands here: spec/93_implementation_defined.md says that every command is a total function of the
register state. -/

namespace Sys2Proof

/-- The parameters of one instance. `W` and `KW` are the register widths in bits (rules R4, R5), `BASE` the byte
address of the window in the host's address space (rule R6). They are no state (rule R20): no step changes them
(log 1). -/
structure Config where
  w    : Nat
  kw   : Nat
  base : Nat
  deriving DecidableEq, Repr

/-- The instance `State.reset` describes: the default widths of rules R4 and R5. `BASE` is left open by rule R6;
0 is a DESIGN CHOICE (log 1). -/
def Config.default : Config := ⟨512, 512, 0⟩

/-- Size of the register window in bytes (rule R60). -/
def windowBytes : Nat := 0x4000

/-- Size of the slot of a wide register in bytes (rule R62). -/
def slotBytes : Nat := 0x100

/-- What `ID` reads always: the letters "ECPA" (rule R32). -/
def idValue : Word := 0x45435041#32

/-- What `VERSION` reads always (rule R32). -/
def versionValue : Word := 0x00010000#32

end Sys2Proof
end

