-- ==== Sys2Proof/Machine/State.lean ====
section
/-! DEFINITION. The architectural state of one ECPA instance (spec/10_state.md), the schedule of the agents
(spec/00_scope.md rule R12), the reasons a step can stop, and the state after reset. -/

namespace Sys2Proof.Machine

/-! ## Values -/

/-- SC's Point: a pair of register values, unsigned integers (rules R9, R25). A register pair holds any pair of values
of its width (rule R26); that it does is part of the invariant in Safety.lean (log 2). -/
structure Point where
  x : Nat
  y : Nat
  deriving DecidableEq, Repr

/-- `IDENT`, the sentinel `(0, 0)` (rules R10, R25). -/
def Point.ident : Point := ⟨0, 0⟩

/-- The errors a command can end in (rule R180); "no error", code 0, is the absence of one. -/
inductive ErrorCode where
  /-- Code 1, raised by `DOMINIT` (rule R181); also sets `STATUS.FATAL` (rule R187). -/
  | invalidCurveParameter
  /-- Code 2, raised by `FINV`, `PADD`, `PDBL`, `PMUL` (rule R182). -/
  | noInverse
  /-- Code 3, raised by an illegal command word (rule R183). -/
  | illegalCommand
  /-- Code 4, raised by a command that needs `DOMV = 1` (rule R184). -/
  | domainNotValid
  /-- Code 5, raised by `DOMINIT` when `DOMV = 1` (rule R184). -/
  | domainLocked
  deriving DecidableEq, Repr

/-- The fields of `STATUS` (rule R34). Its bits 31:6 hold nothing: they read 0 and ignore writes (log 14). -/
structure Status where
  busy  : Bool
  done  : Bool
  err   : Bool
  domv  : Bool
  fatal : Bool
  wign  : Bool
  deriving DecidableEq, Repr

/-- The fields of `FLAGS` (rule R38). Its bits 31:5 hold nothing (log 14). -/
structure Flags where
  eq   : Bool
  sxdy : Bool
  id   : Bool
  flt  : Bool
  feq  : Bool
  deriving DecidableEq, Repr

/-- The bits of `ESTICKY`, one for each error code 1 to 5 (rule R37). Its bits 0 and 31:6 hold nothing (log 14). -/
structure Esticky where
  invalidCurveParameter : Bool
  noInverse             : Bool
  illegalCommand        : Bool
  domainNotValid        : Bool
  domainLocked          : Bool
  deriving DecidableEq, Repr

/-- A wide register, or one coordinate of a point register: what a slot of the window holds (rules R21, R24, R28,
R29, R61). -/
inductive DataReg where
  | dp | da | db | dgx | dgy
  | k
  | px (r : PReg)
  | py (r : PReg)
  | f (r : FReg)
  deriving DecidableEq, Repr

/-- What an aligned offset of the window names (rules R31, R61, R62, R67). -/
inductive Loc where
  | id | version | cfg | ctrl | status | errcode | esticky | flags | cmd
  /-- Word `n` of the slot of a data register, `n` below the register's number of words. -/
  | data (r : DataReg) (n : Nat)
  /-- A reserved word: reads 0, ignores writes (rule R67). -/
  | reserved
  deriving DecidableEq, Repr

/-- One step of one agent (rule R12). Addresses are byte addresses of the host's address space (rule R6); an access
carries its size so that a malformed one can be told (rule R69). -/
inductive Turn where
  /-- A host read (rule R63). -/
  | hostRead (addr size : Nat)
  /-- A host write (rule R64). -/
  | hostWrite (addr size : Nat) (v : Word)
  /-- The core's turn: it completes the pending command, if there is one (rule R65). -/
  | core
  /-- The reset input is asserted and released (rule R200). -/
  | hardReset
  deriving DecidableEq, Repr

/-! ## Hidden sequencer state, local to one completion (rule R43; log 8) -/

/-- The multiplier's working registers (rules R43, R170). -/
structure MulSeq where
  mK : Nat
  mR : Point
  mA : Point
  deriving DecidableEq, Repr

/-- The inverse unit's working registers (rules R43, R141). -/
structure EuclidSeq where
  r0 : Nat
  r1 : Nat
  t0 : Int
  t1 : Int
  deriving DecidableEq, Repr

/-! ## The state -/

/-- The architectural state of rule R20, with the instance's parameters and the schedule beside it. Register values are
unsigned integers (rule R9; log 2). `ID`, `VERSION`, `CFG` and `CTRL` read as constants (rules R32, R33) and hold
nothing. -/
structure State where
  /-- The instance's parameters; no step changes them (rule R20; log 1). -/
  cfg     : Config
  /-- Domain registers (rule R21). -/
  dp      : Nat
  da      : Nat
  db      : Nat
  dgx     : Nat
  dgy     : Nat
  /-- Point registers (rule R24). -/
  p0      : Point
  p1      : Point
  p2      : Point
  p3      : Point
  /-- Field registers (rule R28). -/
  f0      : Nat
  f1      : Nat
  f2      : Nat
  f3      : Nat
  /-- The scalar register (rule R29). -/
  k       : Nat
  /-- `STATUS` (rule R34). -/
  status  : Status
  /-- `ERRCODE` (rule R36); `none` is code 0. -/
  errcode : Option ErrorCode
  /-- `ESTICKY` (rule R37). -/
  esticky : Esticky
  /-- `FLAGS` (rule R38). -/
  flags   : Flags
  /-- `CMD`: the last accepted command word (rule R39). -/
  cmd     : Word
  /-- The model's schedule: whose turn it is next, in order (log 3). When it is empty the host issues nothing more. -/
  turns   : List Turn
  /-- The model's record of what the last host read returned to the host (rule R63; log 9). -/
  rdata   : Option Word
  deriving DecidableEq, Repr

/-- Why a step can stop: the malformed bus accesses of rule R69, which have no step (spec/93_implementation_defined.md
U8; log 7). Each is SAFE: the block's state is unchanged and the model stops where the platform's bus reports an error
to the host. Raised by `hostRead` and `hostWrite` only; no command raises one. -/
inductive Fault where
  /-- The address is outside the window. Safe. -/
  | outsideWindow (addr : Nat)
  /-- The access is not 4 bytes wide. Safe. -/
  | accessSize (size : Nat)
  /-- The offset is not a multiple of 4. Safe. -/
  | misaligned (addr : Nat)
  deriving DecidableEq, Repr

/-- Why an instruction has no meaning. -/
inductive Refusal where
  /-- The instruction's arm in Dispatch.lean is not written yet; raised by `exec` only. Safe. No arm does. -/
  | notModelled (mnemonic : String)
  deriving DecidableEq, Repr

/-- The state after a reset of an instance with the parameters `c`: every register 0 (rules R45, R200), nothing
pending, nothing scheduled, nothing read. -/
def State.resetOf (c : Config) : State where
  cfg     := c
  dp      := 0
  da      := 0
  db      := 0
  dgx     := 0
  dgy     := 0
  p0      := Point.ident
  p1      := Point.ident
  p2      := Point.ident
  p3      := Point.ident
  f0      := 0
  f1      := 0
  f2      := 0
  f3      := 0
  k       := 0
  status  := ⟨false, false, false, false, false, false⟩
  errcode := none
  esticky := ⟨false, false, false, false, false⟩
  flags   := ⟨false, false, false, false, false⟩
  cmd     := 0#32
  turns   := []
  rdata   := none

/-- The state after reset of the instance with the default widths (rules R4, R5, R45; log 1). -/
def State.reset : State := State.resetOf Config.default

end Sys2Proof.Machine
end

