-- ==== Sys2Proof/Machine/Arith.lean ====
section
/-! DEFINITION. The arithmetic every command shares: the primality predicate (spec/00_scope.md rule R8), normalisation
(spec/41_field_reduce_compare.md rule R130), the modular inverse (spec/42_modular_inverse.md rules R140, R141), the point
predicates (spec/40_domain_point.md rules R118 to R121), the doubler and the adder (spec/43_point_add_double.md rules R150,
R152) and the multiplier (spec/44_scalar_multiply.md rule R170). All of it computes over ℤ (rule R9). -/

namespace Sys2Proof.Machine

/-! ## Primality -/

/-- No number from `d` up to the square root of `n` divides `n`; `fuel` bounds the numbers tried. -/
def noDivisorFrom (n : Nat) : Nat → Nat → Bool
  | 0, _ => true
  | fuel + 1, d => if n < d * d then true else if n % d = 0 then false else noDivisorFrom n fuel (d + 1)

/-- `Prime(n)` of rule R8, decided by trial division up to the square root (the method is open: U4; log 10). -/
def isPrime (n : Nat) : Bool := decide (2 ≤ n) && noDivisorFrom n n 2

/-! ## Normalisation -/

/-- `norm_p(v) = ((v % p) + p) % p` with the truncated remainder (rules R10, R130). -/
def normP (p : Nat) (v : Int) : Nat := ((v.tmod p + p).tmod p).toNat

/-! ## Modular inverse -/

/-- One iteration of rule R141. -/
def EuclidSeq.iterate (e : EuclidSeq) : EuclidSeq where
  r0 := e.r1
  r1 := e.r0 - e.r0 / e.r1 * e.r1
  t0 := e.t1
  t1 := e.t0 - (e.r0 / e.r1 : Nat) * e.t1

/-- The loop of rule R141. It ends because `r1` strictly decreases (rule R145), so `r1` iterations are always enough. -/
def euclidLoop : Nat → EuclidSeq → EuclidSeq
  | 0, e => e
  | fuel + 1, e => if e.r1 = 0 then e else euclidLoop fuel e.iterate

/-- `euclid(p, r)` of rule R141: `(g, t)` are the `r0` and `t0` of the result. -/
def euclid (p r : Nat) : EuclidSeq := euclidLoop r ⟨p, r, 0, 1⟩

/-- `inverse(v)` modulo `p` (rule R140). -/
def inverse (p : Nat) (v : Int) : Except ErrorCode Nat :=
  let r := normP p v
  if r = 0 then .error .noInverse
  else
    let e := euclid p r
    if e.r0 ≠ 1 then .error .noInverse
    else .ok (normP p e.t0)

/-! ## Point predicates and negation: raw comparisons -/

/-- Rule R118. -/
def Point.equals (P Q : Point) : Bool := P.x == Q.x && P.y == Q.y

/-- Rule R119. -/
def Point.hasSameXDifferentY (P Q : Point) : Bool := P.x == Q.x && P.y != Q.y

/-- Rule R120. -/
def Point.isIdentity (P : Point) : Bool := P.x == 0 && P.y == 0

/-- Rule R121: `x` passes through, `-y` is normalised at once. -/
def Point.negate (p : Nat) (P : Point) : Point := ⟨P.x, normP p (-(P.y : Int))⟩

/-- `PRED`'s function: both coordinates normalised (rule R135). -/
def Point.reduce (p : Nat) (P : Point) : Point := ⟨normP p P.x, normP p P.y⟩

/-! ## Doubler and adder -/

/-- `dbl(P)` of rule R150. -/
def dbl (p a : Nat) (P : Point) : Except ErrorCode Point :=
  if P.isIdentity then .ok Point.ident
  else
    match inverse p (2 * P.y) with
    | .error e => .error e
    | .ok inv =>
      let slope := normP p ((3 * P.x * P.x + a) * inv)
      let x3 := normP p (slope * slope - 2 * P.x)
      let y3 := normP p (slope * ((P.x : Int) - x3) - P.y)
      .ok ⟨x3, y3⟩

/-- Case 4 of rule R152: the chord through two points with different x, with SC's sign step (rule R153). -/
def addGeneral (p : Nat) (P Q : Point) : Except ErrorCode Point :=
  let dx : Int := Q.x - P.x
  let dy : Int := Q.y - P.y
  let d : Int × Int := if dx < 0 then (-dx, -dy) else (dx, dy)
  match inverse p d.1 with
  | .error e => .error e
  | .ok inv =>
    let slope := normP p (d.2 * inv)
    let x3 := normP p (slope * slope - P.x - Q.x)
    let y3 := normP p (slope * ((P.x : Int) - x3) - P.y)
    .ok ⟨x3, y3⟩

/-- `add(P, Q)` of rule R152: the cases in SC's order. -/
def add (p a : Nat) (P Q : Point) : Except ErrorCode Point :=
  if P.equals Q then dbl p a P
  else if P.hasSameXDifferentY Q then .ok Point.ident
  else if P.isIdentity then .ok Q
  else if Q.isIdentity then .ok P
  else addGeneral p P Q

/-! ## Scalar multiplier -/

/-- One pass of rule R170: the addition before the doubling, both on the pass's `MA`, then the shift (rule R173). -/
def MulSeq.pass (p a : Nat) (m : MulSeq) : Except ErrorCode MulSeq :=
  match (if m.mK % 2 = 1 then add p a m.mR m.mA else .ok m.mR) with
  | .error e => .error e
  | .ok r =>
    match dbl p a m.mA with
    | .error e => .error e
    | .ok d => .ok ⟨m.mK / 2, r, d⟩

/-- The loop of rule R170. `MK` halves in every pass, so `MK` passes are always enough. -/
def mulLoop (p a : Nat) : Nat → MulSeq → Except ErrorCode MulSeq
  | 0, m => .ok m
  | fuel + 1, m =>
    if m.mK = 0 then .ok m
    else
      match m.pass p a with
      | .error e => .error e
      | .ok n => mulLoop p a fuel n

/-- `mul(k, P)` of rule R170. -/
def mul (p a k : Nat) (P : Point) : Except ErrorCode Point :=
  match mulLoop p a k ⟨k, Point.ident, P⟩ with
  | .error e => .error e
  | .ok m => .ok m.mR

end Sys2Proof.Machine
end

