-- ==== Sys2Proof/Machine/Flags.lean ====
section
/-! DEFINITION. The flag bits and the words of the status registers (spec/10_state.md rules R34 to R38): every write of a
flag, and how `STATUS`, `ERRCODE`, `ESTICKY` and `FLAGS` read. -/

namespace Sys2Proof.Machine

/-! ## Writing one flag; the others keep their value (rules R10, R38) -/

def State.setEq (s : State) (b : Bool) : State := { s with flags := { s.flags with eq := b } }

def State.setSxdy (s : State) (b : Bool) : State := { s with flags := { s.flags with sxdy := b } }

def State.setId (s : State) (b : Bool) : State := { s with flags := { s.flags with id := b } }

/-- `FCMP` writes `FLT` and `FEQ` together (rule R134). -/
def State.setOrder (s : State) (lt eq : Bool) : State := { s with flags := { s.flags with flt := lt, feq := eq } }

/-! ## Reading the registers as words -/

/-- The word whose only bit that may be 1 is bit `n`. -/
def bitAt (n : Nat) (b : Bool) : Word := if b then 1#32 <<< n else 0#32

/-- How `STATUS` reads (rule R34). -/
def Status.word (t : Status) : Word :=
  bitAt 0 t.busy ||| bitAt 1 t.done ||| bitAt 2 t.err ||| bitAt 3 t.domv ||| bitAt 4 t.fatal ||| bitAt 5 t.wign

/-- How `FLAGS` reads (rule R38). -/
def Flags.word (f : Flags) : Word :=
  bitAt 0 f.eq ||| bitAt 1 f.sxdy ||| bitAt 2 f.id ||| bitAt 3 f.flt ||| bitAt 4 f.feq

/-- The code of an error (rule R180). -/
def ErrorCode.code : ErrorCode → Nat
  | .invalidCurveParameter => 1
  | .noInverse => 2
  | .illegalCommand => 3
  | .domainNotValid => 4
  | .domainLocked => 5

/-- How `ERRCODE` reads: the code in bits 7:0, 0 for no error (rule R36). -/
def errcodeWord : Option ErrorCode → Word
  | none => 0#32
  | some e => BitVec.ofNat 32 e.code

/-- How `ESTICKY` reads: bit `n` for error code `n` (rule R37). -/
def Esticky.word (t : Esticky) : Word :=
  bitAt 1 t.invalidCurveParameter ||| bitAt 2 t.noInverse ||| bitAt 3 t.illegalCommand |||
  bitAt 4 t.domainNotValid ||| bitAt 5 t.domainLocked

/-- The sticky bit of one error. -/
def Esticky.bit (t : Esticky) : ErrorCode → Bool
  | .invalidCurveParameter => t.invalidCurveParameter
  | .noInverse => t.noInverse
  | .illegalCommand => t.illegalCommand
  | .domainNotValid => t.domainNotValid
  | .domainLocked => t.domainLocked

/-- `ESTICKY[c] <- 1` (rule R186). -/
def Esticky.record (t : Esticky) : ErrorCode → Esticky
  | .invalidCurveParameter => { t with invalidCurveParameter := true }
  | .noInverse => { t with noInverse := true }
  | .illegalCommand => { t with illegalCommand := true }
  | .domainNotValid => { t with domainNotValid := true }
  | .domainLocked => { t with domainLocked := true }

end Sys2Proof.Machine
end

