-- ==== Sys2Proof/Machine/Operands.lean ====
section
/-! DEFINITION. Register operands: the point and field registers a selector names (spec/30_encoding.md rule R91), the wide
registers and their words (spec/20_memory.md rule R62), and the map of the window (rule R61). Every read or write of
a register goes through here. -/

namespace Sys2Proof.Machine

/-! ## Registers named by a selector -/

/-- `P[i]` (rule R10). -/
def State.point (s : State) : PReg → Point
  | .p0 => s.p0
  | .p1 => s.p1
  | .p2 => s.p2
  | .p3 => s.p3

/-- `P[i] <- (x, y)`: both coordinates at once (rule R10). -/
def State.setPoint (s : State) (r : PReg) (v : Point) : State :=
  match r with
  | .p0 => { s with p0 := v }
  | .p1 => { s with p1 := v }
  | .p2 => { s with p2 := v }
  | .p3 => { s with p3 := v }

/-- `F[j]` (rule R10). -/
def State.field (s : State) : FReg → Nat
  | .f0 => s.f0
  | .f1 => s.f1
  | .f2 => s.f2
  | .f3 => s.f3

/-- `F[j] <- v` (rule R10). -/
def State.setField (s : State) (r : FReg) (v : Nat) : State :=
  match r with
  | .f0 => { s with f0 := v }
  | .f1 => { s with f1 := v }
  | .f2 => { s with f2 := v }
  | .f3 => { s with f3 := v }

/-! ## Wide registers -/

/-- The domain registers: the ones a valid domain locks (rules R21, R66). -/
def DataReg.isDomain : DataReg → Bool
  | .dp | .da | .db | .dgx | .dgy => true
  | .k | .px _ | .py _ | .f _ => false

/-- The width in bits: `KW` for `K`, `W` for the others (rules R4, R5). -/
def DataReg.width (c : Config) : DataReg → Nat
  | .k => c.kw
  | .dp | .da | .db | .dgx | .dgy | .px _ | .py _ | .f _ => c.w

/-- The number of words, `N` of rule R62. -/
def DataReg.words (c : Config) (r : DataReg) : Nat := r.width c / 32

/-- The byte offset of the register's slot (rules R21, R24, R28, R29). -/
def DataReg.slot : DataReg → Nat
  | .dp => 0x0100
  | .da => 0x0200
  | .db => 0x0300
  | .dgx => 0x0400
  | .dgy => 0x0500
  | .k => 0x0800
  | .px .p0 => 0x1000
  | .py .p0 => 0x1100
  | .px .p1 => 0x1200
  | .py .p1 => 0x1300
  | .px .p2 => 0x1400
  | .py .p2 => 0x1500
  | .px .p3 => 0x1600
  | .py .p3 => 0x1700
  | .f .f0 => 0x2000
  | .f .f1 => 0x2100
  | .f .f2 => 0x2200
  | .f .f3 => 0x2300

/-- The value of a wide register. -/
def State.dataReg (s : State) : DataReg → Nat
  | .dp => s.dp
  | .da => s.da
  | .db => s.db
  | .dgx => s.dgx
  | .dgy => s.dgy
  | .k => s.k
  | .px r => (s.point r).x
  | .py r => (s.point r).y
  | .f r => s.field r

/-- Replace the value of a wide register; a coordinate leaves the other coordinate alone. -/
def State.setDataReg (s : State) (r : DataReg) (v : Nat) : State :=
  match r with
  | .dp => { s with dp := v }
  | .da => { s with da := v }
  | .db => { s with db := v }
  | .dgx => { s with dgx := v }
  | .dgy => { s with dgy := v }
  | .k => { s with k := v }
  | .px q => s.setPoint q { s.point q with x := v }
  | .py q => s.setPoint q { s.point q with y := v }
  | .f q => s.setField q v

/-- Word `n` of a value: its bits `32n+31 : 32n` (rule R62). -/
def wordOf (v n : Nat) : Word := BitVec.ofNat 32 (v / 2 ^ (32 * n))

/-- The value with its bits `32n+31 : 32n` replaced and the rest kept (rule R62). -/
def replaceWord (v n : Nat) (w : Word) : Nat :=
  v % 2 ^ (32 * n) + w.toNat * 2 ^ (32 * n) + v / 2 ^ (32 * (n + 1)) * 2 ^ (32 * (n + 1))

/-! ## The map of the window -/

/-- The register whose slot is the `n`-th block of 0x100 bytes (rule R61). -/
def slotReg (n : Nat) : Option DataReg :=
  match n with
  | 0x01 => some .dp
  | 0x02 => some .da
  | 0x03 => some .db
  | 0x04 => some .dgx
  | 0x05 => some .dgy
  | 0x08 => some .k
  | 0x10 => some (.px .p0)
  | 0x11 => some (.py .p0)
  | 0x12 => some (.px .p1)
  | 0x13 => some (.py .p1)
  | 0x14 => some (.px .p2)
  | 0x15 => some (.py .p2)
  | 0x16 => some (.px .p3)
  | 0x17 => some (.py .p3)
  | 0x20 => some (.f .f0)
  | 0x21 => some (.f .f1)
  | 0x22 => some (.f .f2)
  | 0x23 => some (.f .f3)
  | _ => none

/-- The control and status register at an offset (rule R31). -/
def controlReg (off : Nat) : Loc :=
  match off with
  | 0x00 => .id
  | 0x04 => .version
  | 0x08 => .cfg
  | 0x0C => .ctrl
  | 0x10 => .status
  | 0x14 => .errcode
  | 0x18 => .esticky
  | 0x1C => .flags
  | 0x20 => .cmd
  | _ => .reserved

/-- What the word at an aligned offset of the window is (rules R61, R62, R67). -/
def locate (c : Config) (off : Nat) : Loc :=
  match slotReg (off / slotBytes) with
  | some r => if off % slotBytes / 4 < r.words c then .data r (off % slotBytes / 4) else .reserved
  | none => controlReg off

end Sys2Proof.Machine
end

