-- ==== Sys2Proof/Machine/Ops.lean ====
section
/-! DEFINITION. The named operations over the state that commands and host accesses share: issue, the two outcomes of a
completion (taking an error among them), soft reset, the window's reads and writes (spec/20_memory.md rules R62 to R69,
spec/60_exceptions.md rule R186, spec/70_reset_and_hazards.md rule R201). -/

namespace Sys2Proof.Machine

/-! ## Issue and completion of a command -/

/-- The accepted issue of the word `v` (rule R64 item 3): nothing but this changes. -/
def State.issue (s : State) (v : Word) : State :=
  { s with
    cmd := v
    status := { s.status with busy := true, done := false, err := false }
    errcode := none }

/-- Completion with success, after the command's own updates (rule R65). -/
def State.succeed (s : State) : State :=
  { s with
    status := { s.status with busy := false, done := true, err := false }
    errcode := none }

/-- TAKING AN ERROR: the whole of rule R186. No destination, no flag, no source, no domain register changes; code 1
also sets `FATAL` (rule R187). There is nothing to return from (rule R188): the host clears `ERR` by `clearStatus` or by
the next `issue`. -/
def State.takeError (s : State) (e : ErrorCode) : State :=
  { s with
    status := { s.status with
      busy := false
      done := true
      err := true
      fatal := s.status.fatal || e == .invalidCurveParameter }
    errcode := some e
    esticky := s.esticky.record e }

/-- The commit of a completion (rules R65, R110): all updates of a success at once, or none and the error. An error is
a state of the machine that the host continues from (rule R192), so it is a next state (log 6). -/
def State.commit (s : State) (r : Except ErrorCode State) : Host.Outcome State Fault Refusal :=
  match r with
  | .ok t => .next t.succeed
  | .error e => .next (s.takeError e)

/-- The state check of the commands that need `DOMV = 1` (rule R110 step 2). -/
def State.needDomain (s : State) : Except ErrorCode Unit :=
  if s.status.domv then .ok () else .error .domainNotValid

/-! ## Host writes with an action -/

/-- A write to `STATUS`: clear each of `DONE`, `ERR`, `WIGN` whose written bit is 1 (rule R34). -/
def State.clearStatus (s : State) (v : Word) : State :=
  { s with status := { s.status with
      done := s.status.done && !v.getLsbD 1
      err := s.status.err && !v.getLsbD 2
      wign := s.status.wign && !v.getLsbD 5 } }

/-- Reset of the block, hard or soft: every register takes its reset value and the pending command is abandoned (rules
R200 to R202). The parameters, the schedule and the host's last read are not the block's (log 19). -/
def State.resetBlock (s : State) : State :=
  { State.resetOf s.cfg with turns := s.turns, rdata := s.rdata }

/-- A write to `CTRL`: bit 0 resets, the other bits are ignored (rule R33). -/
def State.writeCtrl (s : State) (v : Word) : State := if v.getLsbD 0 then s.resetBlock else s

/-- `WIGN <- 1`: a host write was ignored for a hazard (rules R34, R66). -/
def State.markIgnored (s : State) : State := { s with status := { s.status with wign := true } }

/-- A write to `CMD`: the issue step, ignored while `BUSY` or `FATAL` (rule R64 item 3). -/
def State.writeCmd (s : State) (v : Word) : State :=
  if s.status.busy || s.status.fatal then s.markIgnored else s.issue v

/-- A write to word `n` of a data register: ignored while `BUSY`, and for a domain register while `DOMV` (rule R66). -/
def State.writeData (s : State) (r : DataReg) (n : Nat) (v : Word) : State :=
  if s.status.busy || (r.isDomain && s.status.domv) then s.markIgnored
  else s.setDataReg r (replaceWord (s.dataReg r) n v)

/-! ## The window -/

/-- How `CFG` reads: `KW` in bits 31:16, `W` in bits 15:0 (rule R32). -/
def Config.word (c : Config) : Word := BitVec.ofNat 32 (c.kw * 65536 + c.w)

/-- The current value of a word of the window (rules R31 to R39, R62, R67). -/
def State.readLoc (s : State) : Loc → Word
  | .id => idValue
  | .version => versionValue
  | .cfg => Config.word s.cfg
  | .ctrl => 0#32
  | .status => s.status.word
  | .errcode => errcodeWord s.errcode
  | .esticky => s.esticky.word
  | .flags => s.flags.word
  | .cmd => s.cmd
  | .data r n => wordOf (s.dataReg r) n
  | .reserved => 0#32

/-- A host write by target (rule R64). -/
def State.writeLoc (s : State) (l : Loc) (v : Word) : State :=
  match l with
  | .ctrl => s.writeCtrl v
  | .status => s.clearStatus v
  | .cmd => s.writeCmd v
  | .data r n => s.writeData r n v
  | .id | .version | .cfg | .errcode | .esticky | .flags | .reserved => s

/-- The word at an aligned offset of the window. -/
def State.readWord (s : State) (off : Nat) : Word := s.readLoc (locate s.cfg off)

/-- Byte `k` of a word: its bits `8k+7 : 8k` (rule R68). -/
def byteLane (w : Word) (k : Nat) : Byte := w.extractLsb' (8 * k) 8

/-- The byte at an offset of the window (rule R68). The block offers no byte access (rule R69): this is how the bytes
of the words it does offer lie at byte addresses. -/
def State.readByte (s : State) (off : Nat) : Byte := byteLane (s.readWord (off - off % 4)) (off % 4)

/-! ## Host accesses -/

/-- The offset an access names, or why it is malformed (rule R69; log 7). -/
def accessOffset (c : Config) (addr size : Nat) : Except Fault Nat :=
  if addr < c.base ∨ c.base + windowBytes ≤ addr then .error (.outsideWindow addr)
  else if size ≠ 4 then .error (.accessSize size)
  else if (addr - c.base) % 4 ≠ 0 then .error (.misaligned addr)
  else .ok (addr - c.base)

/-- `MemRead` (rule R63): no register changes; the value goes to the host (log 9). -/
def State.hostRead (s : State) (addr size : Nat) : Host.Outcome State Fault Refusal :=
  match accessOffset s.cfg addr size with
  | .error e => .fault e
  | .ok off => .next { s with rdata := some (s.readWord off) }

/-- `MemWrite` (rule R64). -/
def State.hostWrite (s : State) (addr size : Nat) (v : Word) : Host.Outcome State Fault Refusal :=
  match accessOffset s.cfg addr size with
  | .error e => .fault e
  | .ok off => .next (s.writeLoc (locate s.cfg off) v)

end Sys2Proof.Machine
end

