-- ==== Sys2Proof/Machine/Curve.lean ====
section
/-! DEFINITION. The point adder, doubler and scalar multiplier `PADD`, `PDBL`, `PMUL` (spec/43_point_add_double.md rules
R154, R155; spec/44_scalar_multiply.md rule R172). All sources are read and the whole result computed before the
destination pair is written (spec/70_reset_and_hazards.md rule R207). -/

namespace Sys2Proof.Machine

/-- `PADD Pd, Pa, Pb` (rule R154). -/
def execPadd (rd ra rb : PReg) (s : State) : Host.Outcome State Fault Refusal :=
  s.commit do
    s.needDomain
    let r ← add s.dp s.da (s.point ra) (s.point rb)
    .ok (s.setPoint rd r)

/-- `PDBL Pd, Pa` (rule R155). -/
def execPdbl (rd ra : PReg) (s : State) : Host.Outcome State Fault Refusal :=
  s.commit do
    s.needDomain
    let r ← dbl s.dp s.da (s.point ra)
    .ok (s.setPoint rd r)

/-- `PMUL Pd, Pa` (rule R172): the scalar is `K`, which keeps its value. -/
def execPmul (rd ra : PReg) (s : State) : Host.Outcome State Fault Refusal :=
  s.commit do
    s.needDomain
    let r ← mul s.dp s.da s.k (s.point ra)
    .ok (s.setPoint rd r)

end Sys2Proof.Machine
end

