-- ==== Sys2Proof/Machine/Field.lean ====
section
/-! DEFINITION. Field reduction and comparison `FRED`, `FNEG`, `FCMP`, `PRED` (spec/41_field_reduce_compare.md rules R132
to R135) and the modular inverse `FINV` (spec/42_modular_inverse.md rule R143). -/

namespace Sys2Proof.Machine

/-- `FRED Fd, Fa` (rule R132). -/
def execFred (rd ra : FReg) (s : State) : Host.Outcome State Fault Refusal :=
  s.commit do
    s.needDomain
    .ok (s.setField rd (normP s.dp (s.field ra)))

/-- `FNEG Fd, Fa` (rule R133). -/
def execFneg (rd ra : FReg) (s : State) : Host.Outcome State Fault Refusal :=
  s.commit do
    s.needDomain
    .ok (s.setField rd (normP s.dp (-(s.field ra : Int))))

/-- `FCMP Fa, Fb` (rule R134): unsigned and raw, whatever `DOMV` is. -/
def execFcmp (ra rb : FReg) (s : State) : Host.Outcome State Fault Refusal :=
  s.commit (.ok (s.setOrder (decide (s.field ra < s.field rb)) (decide (s.field ra = s.field rb))))

/-- `PRED Pd, Pa` (rule R135). -/
def execPred (rd ra : PReg) (s : State) : Host.Outcome State Fault Refusal :=
  s.commit do
    s.needDomain
    .ok (s.setPoint rd ((s.point ra).reduce s.dp))

/-- `FINV Fd, Fa` (rule R143). -/
def execFinv (rd ra : FReg) (s : State) : Host.Outcome State Fault Refusal :=
  s.commit do
    s.needDomain
    let x ← inverse s.dp (s.field ra)
    .ok (s.setField rd x)

end Sys2Proof.Machine
end

