-- ==== Sys2Proof/Machine/Predicates.lean ====
section
/-! DEFINITION. The point predicates and negation `PEQ`, `PSXDY`, `PISID`, `PNEG` (spec/40_domain_point.md rules R114 to
R117). The predicates run whatever `DOMV` is. -/

namespace Sys2Proof.Machine

/-- `PEQ Pa, Pb` (rule R114). -/
def execPeq (ra rb : PReg) (s : State) : Host.Outcome State Fault Refusal :=
  s.commit (.ok (s.setEq ((s.point ra).equals (s.point rb))))

/-- `PSXDY Pa, Pb` (rule R115). -/
def execPsxdy (ra rb : PReg) (s : State) : Host.Outcome State Fault Refusal :=
  s.commit (.ok (s.setSxdy ((s.point ra).hasSameXDifferentY (s.point rb))))

/-- `PISID Pa` (rule R116). -/
def execPisid (ra : PReg) (s : State) : Host.Outcome State Fault Refusal :=
  s.commit (.ok (s.setId (s.point ra).isIdentity))

/-- `PNEG Pd, Pa` (rule R117). -/
def execPneg (rd ra : PReg) (s : State) : Host.Outcome State Fault Refusal :=
  s.commit do
    s.needDomain
    .ok (s.setPoint rd ((s.point ra).negate s.dp))

end Sys2Proof.Machine
end

