-- ==== Sys2Proof/Machine/System.lean ====
section
/-! DEFINITION. The system commands `NOP`, `DOMINIT`, `PLDG` (spec/40_domain_point.md rules R111 to R113). Each meaning is
the completion step of its command (spec/20_memory.md rule R65). -/

namespace Sys2Proof.Machine

/-- `NOP` (rule R111). -/
def execNop (s : State) : Host.Outcome State Fault Refusal := s.commit (.ok s)

/-- The domain check of rule R112, after the state check of rule R110. -/
def State.domainCheck (s : State) : Except ErrorCode State :=
  if s.status.domv then .error .domainLocked
  else if !isPrime s.dp then .error .invalidCurveParameter
  else if s.db % s.dp = 0 then .error .invalidCurveParameter
  else .ok { s with status := { s.status with domv := true } }

/-- `DOMINIT` (rule R112). -/
def execDominit (s : State) : Host.Outcome State Fault Refusal := s.commit s.domainCheck

/-- `PLDG Pd` (rule R113): a raw copy of the generator. -/
def execPldg (rd : PReg) (s : State) : Host.Outcome State Fault Refusal :=
  s.commit do
    s.needDomain
    .ok (s.setPoint rd ⟨s.dgx, s.dgy⟩)

end Sys2Proof.Machine
end

