-- ==== Sys2Proof/Machine/Dispatch.lean ====
section
/-! DEFINITION. The meaning of every command: one arm per constructor of `Instr`. -/

namespace Sys2Proof.Machine

/-- The completion step of the command `i` (spec/40_domain_point.md rule R110, steps 2 and 3). -/
def exec (i : Instr) (s : State) : Host.Outcome State Fault Refusal :=
  match i with
  | .nop => Sys2Proof.Machine.execNop s
  | .dominit => Sys2Proof.Machine.execDominit s
  | .pldg rd => Sys2Proof.Machine.execPldg rd s
  | .peq ra rb => Sys2Proof.Machine.execPeq ra rb s
  | .psxdy ra rb => Sys2Proof.Machine.execPsxdy ra rb s
  | .pisid ra => Sys2Proof.Machine.execPisid ra s
  | .pneg rd ra => Sys2Proof.Machine.execPneg rd ra s
  | .fred rd ra => Sys2Proof.Machine.execFred rd ra s
  | .fneg rd ra => Sys2Proof.Machine.execFneg rd ra s
  | .fcmp ra rb => Sys2Proof.Machine.execFcmp ra rb s
  | .pred rd ra => Sys2Proof.Machine.execPred rd ra s
  | .finv rd ra => Sys2Proof.Machine.execFinv rd ra s
  | .padd rd ra rb => Sys2Proof.Machine.execPadd rd ra rb s
  | .pdbl rd ra => Sys2Proof.Machine.execPdbl rd ra s
  | .pmul rd ra => Sys2Proof.Machine.execPmul rd ra s

end Sys2Proof.Machine
end

