-- ==== Sys2Proof/Machine/Turns.lean ====
section
/-! DEFINITION. The steps of the agents (spec/00_scope.md rule R12): the completion of the pending command
(spec/20_memory.md rule R65), the core's turn, and one turn of any agent. -/

namespace Sys2Proof.Machine

/-- The completion step: decode the word in `CMD`; an illegal word takes `IllegalCommand`, a command takes its meaning
(rules R65, R94, R110, R185). -/
def State.complete (s : State) : Host.Outcome State Fault Refusal :=
  match decode s.cmd with
  | .error _ => .next (s.takeError .illegalCommand)
  | .ok i => exec i s

/-- The core's turn: completion is enabled exactly when `BUSY = 1` (rule R65); an idle core does nothing (log 5). -/
def State.coreTurn (s : State) : Host.Outcome State Fault Refusal :=
  if s.status.busy then s.complete else .next s

/-- One turn of one agent. -/
def State.takeTurn (s : State) : Turn → Host.Outcome State Fault Refusal
  | .hostRead addr size => s.hostRead addr size
  | .hostWrite addr size v => s.hostWrite addr size v
  | .core => s.coreTurn
  | .hardReset => .next s.resetBlock

/-- The next step of the machine: the scheduled turn, taken off the schedule; when nothing is scheduled the core has
the turn, so a pending command still completes (rule R210; log 4). -/
def State.nextTurn (s : State) : Host.Outcome State Fault Refusal :=
  match s.turns with
  | [] => s.coreTurn
  | t :: rest => { s with turns := rest }.takeTurn t

/-- The state in which the command word `v` has just been issued and the core has the next turn (log 13). -/
def State.present (s : State) (v : Word) : State := { s.issue v with turns := .core :: s.turns }

end Sys2Proof.Machine
end

