-- ==== Sys2Proof/Machine/Step.lean ====
section
/-! DEFINITION. The step function, and how a command word comes to be the next thing that runs. -/

namespace Sys2Proof.Machine

/-- One step of the machine: one host read, one host write, one core completion or one reset (spec/00_scope.md rule
R12), whichever the schedule names next. -/
def step (s : State) : Host.Outcome State Fault Refusal := s.nextTurn

/-- `s` with the command word of the table's bits `w` issued, so that the very next step is its completion. There is no
program counter and nothing is fetched (rule R30): a command comes to run by the host's write of it to `CMD` (rule R64),
which this stands for (log 13). -/
def State.withFetchWord (s : State) (nbits w : Nat) : State := s.present (tableWord nbits w)

end Sys2Proof.Machine
end

