-- ==== Sys2Proof/Machine/Script.lean ====
section
/-! DEFINITION. Host scripts (spec/30_encoding.md rules R100, R101): the statements a program for this block is written in,
each as the host accesses it stands for. A script is the host's software: it only makes turns for the schedule
(log 17). -/

namespace Sys2Proof.Machine

/-- A register name of a script (rule R100). -/
inductive ScriptReg where
  | data (r : DataReg)
  | id | version | cfg | ctrl | status | errcode | esticky | flags | cmd
  deriving DecidableEq, Repr

/-- The statements of rule R100. `wait polls` reads `STATUS` `polls` times before the core completes and once after:
the latency is open (rule R212), so the number is the statement's argument. -/
inductive Stmt where
  | wr (r : ScriptReg) (value : Nat)
  | wrw (off : Nat) (v : Word)
  | rd (r : ScriptReg)
  | rdw (off : Nat)
  | cmd (i : Instr)
  | wait (polls : Nat)
  /-- A read whose result the rules predict to be `value`: the accesses of `rd`. -/
  | expect (r : ScriptReg) (value : Nat)
  deriving DecidableEq, Repr

/-- The offset of the register's first word (rules R31, R61). -/
def ScriptReg.offset : ScriptReg → Nat
  | .data r => r.slot
  | .id => 0x00
  | .version => 0x04
  | .cfg => 0x08
  | .ctrl => 0x0C
  | .status => 0x10
  | .errcode => 0x14
  | .esticky => 0x18
  | .flags => 0x1C
  | .cmd => 0x20

/-- The number of words: `N` for a wide register, 1 for a 32-bit register (rule R100). -/
def ScriptReg.words (c : Config) : ScriptReg → Nat
  | .data r => r.words c
  | .id | .version | .cfg | .ctrl | .status | .errcode | .esticky | .flags | .cmd => 1

/-- One `MemRead` at an offset. -/
def readTurn (c : Config) (off : Nat) : Turn := .hostRead (c.base + off) 4

/-- One `MemWrite` at an offset. -/
def writeTurn (c : Config) (off : Nat) (v : Word) : Turn := .hostWrite (c.base + off) 4 v

/-- The accesses `WR reg, value` stands for: word 0 first (rule R100). -/
def writeTurns (c : Config) (r : ScriptReg) (value : Nat) : List Turn :=
  (List.range (r.words c)).map fun n => writeTurn c (r.offset + 4 * n) (wordOf value n)

/-- The accesses `RD reg` stands for: word 0 first (rule R100). -/
def readTurns (c : Config) (r : ScriptReg) : List Turn :=
  (List.range (r.words c)).map fun n => readTurn c (r.offset + 4 * n)

/-- The value of a register from the words read, word 0 first (rules R62, R100). -/
def assemble : List Word → Nat
  | [] => 0
  | w :: rest => w.toNat + 2 ^ 32 * assemble rest

/-- The turns a statement stands for (rule R100). -/
def Stmt.turns (c : Config) : Stmt → List Turn
  | .wr r value => writeTurns c r value
  | .wrw off v => [writeTurn c off v]
  | .rd r => readTurns c r
  | .rdw off => [readTurn c off]
  | .cmd i => [writeTurn c 0x0020 (encode i)]
  | .wait polls => List.replicate polls (readTurn c 0x0010) ++ [.core, readTurn c 0x0010]
  | .expect r _ => readTurns c r

/-- The turns of a whole script. -/
def scriptTurns (c : Config) (p : List Stmt) : List Turn := p.flatMap (Stmt.turns c)

/-! ## Pseudo-instructions (rule R101) -/

def callStmts (i : Instr) (polls : Nat) : List Stmt := [.cmd i, .wait polls]

def ldpStmts (r : PReg) (x y : Nat) : List Stmt := [.wr (.data (.px r)) x, .wr (.data (.py r)) y]

def ldfStmts (r : FReg) (v : Nat) : List Stmt := [.wr (.data (.f r)) v]

def ldkStmts (k : Nat) : List Stmt := [.wr (.data .k) k]

def lddomStmts (p a b gx gy : Nat) : List Stmt :=
  [.wr (.data .dp) p, .wr (.data .da) a, .wr (.data .db) b, .wr (.data .dgx) gx, .wr (.data .dgy) gy]

/-- `ACK`: clear `DONE` and `ERR`. -/
def ackStmts : List Stmt := [.wrw 0x0010 0x00000006#32]

/-- `SRST`: soft reset. -/
def srstStmts : List Stmt := [.wrw 0x000C 0x00000001#32]

/-- The end of a run of a host script: nothing is left to perform and nothing is pending (rule R213). -/
def State.finished (s : State) : Bool := s.turns.isEmpty && !s.status.busy

end Sys2Proof.Machine
end

