-- ==== Sys2Proof/WellFormed.lean ====
section
/-! DEFINITION. What is well formed before anything runs: the parameters of an instance (spec/00_scope.md rules R4, R5),
and a command word by the match and mask table of spec/30_encoding.md rule R93. A term of `Instr` carries its own
well-formedness: its selectors can name only `P0..P3` and `F0..F3`. The decoder (Decode.lean) does not use the table
below; that the two agree is a statement. -/

namespace Sys2Proof

/-- Rules R4 and R5: both widths are multiples of 32, `64 <= W <= 2048`, `32 <= KW <= 2048`. -/
def Config.wellFormed (c : Config) : Bool :=
  c.w % 32 == 0 && decide (64 ≤ c.w) && decide (c.w ≤ 2048) &&
  c.kw % 32 == 0 && decide (32 ≤ c.kw) && decide (c.kw ≤ 2048)

/-- One row of rule R93: a word `w` is the command of the row exactly when `w & mask = match`. -/
structure OpcodeRow where
  bits : Word
  mask : Word
  deriving DecidableEq, Repr

def OpcodeRow.hit (r : OpcodeRow) (w : Word) : Bool := w &&& r.mask == r.bits

/-- The table of rule R93, in its order. -/
def opcodeRows : List OpcodeRow :=
  [ ⟨0x00000000#32, 0xFFFFFFFF#32⟩   -- NOP
  , ⟨0x01000000#32, 0xFFFFFFFF#32⟩   -- DOMINIT
  , ⟨0x02000000#32, 0xFFCFFFFF#32⟩   -- PLDG
  , ⟨0x10000000#32, 0xFFFCCFFF#32⟩   -- PEQ
  , ⟨0x11000000#32, 0xFFFCCFFF#32⟩   -- PSXDY
  , ⟨0x12000000#32, 0xFFFCFFFF#32⟩   -- PISID
  , ⟨0x13000000#32, 0xFFCCFFFF#32⟩   -- PNEG
  , ⟨0x18000000#32, 0xFFCCFFFF#32⟩   -- FRED
  , ⟨0x19000000#32, 0xFFCCFFFF#32⟩   -- FNEG
  , ⟨0x1A000000#32, 0xFFFCCFFF#32⟩   -- FCMP
  , ⟨0x1B000000#32, 0xFFCCFFFF#32⟩   -- PRED
  , ⟨0x20000000#32, 0xFFCCFFFF#32⟩   -- FINV
  , ⟨0x30000000#32, 0xFFCCCFFF#32⟩   -- PADD
  , ⟨0x31000000#32, 0xFFCCFFFF#32⟩   -- PDBL
  , ⟨0x40000000#32, 0xFFCCFFFF#32⟩ ] -- PMUL

/-- A word that is some command; every other word is illegal (rules R93, R94). -/
def legalWord (w : Word) : Bool := opcodeRows.any fun r => r.hit w

/-- The row of rule R93 that a command belongs to. -/
def Instr.row : Instr → OpcodeRow
  | .nop => ⟨0x00000000#32, 0xFFFFFFFF#32⟩
  | .dominit => ⟨0x01000000#32, 0xFFFFFFFF#32⟩
  | .pldg _ => ⟨0x02000000#32, 0xFFCFFFFF#32⟩
  | .peq _ _ => ⟨0x10000000#32, 0xFFFCCFFF#32⟩
  | .psxdy _ _ => ⟨0x11000000#32, 0xFFFCCFFF#32⟩
  | .pisid _ => ⟨0x12000000#32, 0xFFFCFFFF#32⟩
  | .pneg _ _ => ⟨0x13000000#32, 0xFFCCFFFF#32⟩
  | .fred _ _ => ⟨0x18000000#32, 0xFFCCFFFF#32⟩
  | .fneg _ _ => ⟨0x19000000#32, 0xFFCCFFFF#32⟩
  | .fcmp _ _ => ⟨0x1A000000#32, 0xFFFCCFFF#32⟩
  | .pred _ _ => ⟨0x1B000000#32, 0xFFCCFFFF#32⟩
  | .finv _ _ => ⟨0x20000000#32, 0xFFCCFFFF#32⟩
  | .padd _ _ _ => ⟨0x30000000#32, 0xFFCCCFFF#32⟩
  | .pdbl _ _ => ⟨0x31000000#32, 0xFFCCFFFF#32⟩
  | .pmul _ _ => ⟨0x40000000#32, 0xFFCCFFFF#32⟩

end Sys2Proof
end

