-- ==== Sys2Proof/Safety.lean ====
section
/-! DEFINITION. What claims are stated in terms of: the invariants of the state (spec/10_state.md rules R23, R35), which
turns reset the block, and the record of a clean run (spec/60_exceptions.md rule R192). -/

namespace Sys2Proof

/-- The column "Needs `DOMV`" of spec/30_encoding.md rule R93. -/
def Instr.needsDomain : Instr → Bool
  | .pldg _ | .pneg _ _ | .fred _ _ | .fneg _ _ | .pred _ _ | .finv _ _ | .padd _ _ _ | .pdbl _ _ | .pmul _ _ => true
  | .nop | .dominit | .peq _ _ | .psxdy _ _ | .pisid _ | .fcmp _ _ => false

/-- The commands that can raise `NoInverse` (rule R180). -/
def Instr.inverts : Instr → Bool
  | .finv _ _ | .padd _ _ _ | .pdbl _ _ | .pmul _ _ => true
  | .nop | .dominit | .pldg _ | .peq _ _ | .psxdy _ _ | .pisid _ | .pneg _ _ | .fred _ _ | .fneg _ _ | .fcmp _ _
  | .pred _ _ => false

end Sys2Proof

namespace Sys2Proof.Machine

/-- The invariants of `STATUS` (rule R35). -/
structure StatusInv (s : State) : Prop where
  not_valid_and_fatal : ¬ (s.status.domv = true ∧ s.status.fatal = true)
  busy_not_fatal : s.status.busy = true → s.status.fatal = false
  busy_not_done : s.status.busy = true → s.status.done = false ∧ s.status.err = false
  err_has_code : s.status.err = true → s.errcode ≠ none

/-- The invariant of the machine: legal parameters, every wide register within its width (rule R9), the invariants of
`STATUS` (rule R35), a valid domain that passed its check (rule R23), and every error recorded (rule R37). -/
structure Inv (s : State) : Prop where
  config : s.cfg.wellFormed = true
  in_range : ∀ r : DataReg, s.dataReg r < 2 ^ r.width s.cfg
  status : StatusInv s
  domain : s.status.domv = true → Nat.Prime s.dp ∧ s.db % s.dp ≠ 0
  recorded : ∀ e, s.errcode = some e → s.esticky.bit e = true
  fatal_recorded : s.status.fatal = true → s.esticky.bit .invalidCurveParameter = true

/-- The turns that reset the block: the reset input, and a write to `CTRL` with bit 0 = 1 (rules R200, R201). -/
def Turn.resets (c : Config) : Turn → Bool
  | .hardReset => true
  | .hostWrite addr size v => addr == c.base + 0x0C && size == 4 && v.getLsbD 0
  | .hostRead _ _ | .core => false

/-- The next step of this state is a reset. -/
def State.nextResets (s : State) : Bool :=
  match s.turns with
  | [] => false
  | t :: _ => t.resets s.cfg

/-- The next step of this state is the core's turn: scheduled, or nothing scheduled (log 4). -/
def State.coreNext (s : State) : Bool :=
  match s.turns with
  | [] => true
  | .core :: _ => true
  | .hostRead _ _ :: _ | .hostWrite _ _ _ :: _ | .hardReset :: _ => false

/-- The record of a run in which no command failed and no write was lost: `ESTICKY = 0` and `WIGN = 0` (rule R192;
spec/93_implementation_defined.md U17). -/
def State.clean (s : State) : Bool := s.esticky.word == 0#32 && !s.status.wign

/-- `t` is reached from `s` in some number of steps. -/
inductive Reaches (s : State) : State → Prop where
  | refl : Reaches s s
  | more {t u : State} : Reaches s t → step t = .next u → Reaches s u

end Sys2Proof.Machine
end

