-- ==== Sys2Proof/Certificates/Slice0/Obligations.lean ====
section
/-! DEFINITION. The statements about the model, each from the rules of spec/ its docstring names. "The core has the turn"
and "the next turn is a host write" are the model's form of the interleaving of spec/00_scope.md rule R12 (logs 3
and 4). -/

namespace Sys2Proof.Machine

/-! ## Terms the statements share, written out from the rules and not from the model's operations -/

/-- `s` as the completion of a success leaves it, its updates already made (spec/20_memory.md rule R65). -/
def successOf (s : State) : State :=
  { s with
    status := { s.status with busy := false, done := true, err := false }
    errcode := none }

/-- `s` as the completion with error `e` leaves it (spec/60_exceptions.md rule R186). -/
def errorOf (s : State) (e : ErrorCode) : State :=
  { s with
    status := { s.status with
      busy := false
      done := true
      err := true
      fatal := s.status.fatal || e == .invalidCurveParameter }
    errcode := some e
    esticky :=
      { invalidCurveParameter := s.esticky.invalidCurveParameter || e == .invalidCurveParameter
        noInverse := s.esticky.noInverse || e == .noInverse
        illegalCommand := s.esticky.illegalCommand || e == .illegalCommand
        domainNotValid := s.esticky.domainNotValid || e == .domainNotValid
        domainLocked := s.esticky.domainLocked || e == .domainLocked } }

/-- The state with the turn at the head of the schedule taken off. -/
def afterTurn (s : State) : State := { s with turns := s.turns.tail }

/-- The next turn is a host write of `v` to the word at offset `off`. -/
def writesNext (s : State) (off : Nat) (v : Word) : Prop :=
  s.turns.head? = some (.hostWrite (s.cfg.base + off) 4 v)

/-- The next turn is a host read of the word at offset `off`. -/
def readsNext (s : State) (off : Nat) : Prop := s.turns.head? = some (.hostRead (s.cfg.base + off) 4)

/-- The domain registers (spec/10_state.md rule R21). -/
def domainRegs : List DataReg := [.dp, .da, .db, .dgx, .dgy]

/-- The offsets of the control and status registers (spec/10_state.md rule R31). -/
def controlOffsets : List Nat := [0x00, 0x04, 0x08, 0x0C, 0x10, 0x14, 0x18, 0x1C, 0x20]

/-- An aligned offset of the window. -/
def wordOffset (off : Nat) : Prop := off % 4 = 0 ∧ off < 0x4000

/-- A pair with both coordinates below `p`: SC's range of a Point (spec/10_state.md rule R25). -/
def Point.reduced (p : Nat) (P : Point) : Prop := P.x < p ∧ P.y < p

/-- Which selector fields a command of an `OP` value uses; `none` for an unassigned value (spec/30_encoding.md rule R93,
columns `RD`, `RA`, `RB`). -/
def selectorsUsed (op : Nat) : Option (Bool × Bool × Bool) :=
  match op with
  | 0x00 | 0x01 => some (false, false, false)
  | 0x02 => some (true, false, false)
  | 0x10 | 0x11 | 0x1A => some (false, true, true)
  | 0x12 => some (false, true, false)
  | 0x13 | 0x18 | 0x19 | 0x1B | 0x20 | 0x31 | 0x40 => some (true, true, false)
  | 0x30 => some (true, true, true)
  | _ => none

/-- A selector field that makes the word illegal: used and above 3, or unused and not 0 (spec/30_encoding.md rule R94). -/
def badSelector (used : Bool) (v : Nat) : Prop := if used = true then 3 < v else v ≠ 0

/-- The illegal words of spec/30_encoding.md rule R94, on the number the word is. -/
def illegalNumber (w : Nat) : Prop :=
  match selectorsUsed (w / 2 ^ 24) with
  | none => True
  | some (d, a, b) =>
    w % 2 ^ 12 ≠ 0 ∨ badSelector d (w / 2 ^ 20 % 16) ∨ badSelector a (w / 2 ^ 16 % 16) ∨
      badSelector b (w / 2 ^ 12 % 16)

/-- The registers after a reset of an instance with parameters `c` (spec/10_state.md rule R45). -/
def resetRegisters (c : Config) (t : State) : Prop :=
  t.cfg = c ∧ (∀ r, t.dataReg r = 0) ∧ (∀ r, t.point r = Point.ident) ∧
  t.status = ⟨false, false, false, false, false, false⟩ ∧
  (∀ off, wordOffset off → t.readWord off =
    if off = 0x00 then 0x45435041#32 else if off = 0x04 then 0x00010000#32
    else if off = 0x08 then BitVec.ofNat 32 (c.kw * 65536 + c.w) else 0#32)

/-- One pass of spec/44_scalar_multiply.md rule R170 on the bit `b` of the scalar: `(result, addend)` to
`(result, addend)`. -/
def bitPass (p a : Nat) (m : Point × Point) (b : Bool) : Except ErrorCode (Point × Point) := do
  let r ← if b then add p a m.1 m.2 else .ok m.1
  let q ← dbl p a m.2
  .ok (r, q)

/-- `n` doublings of `P`. -/
def doublings (p a : Nat) (P : Point) : Nat → Except ErrorCode Point
  | 0 => .ok P
  | n + 1 =>
    match doublings p a P n with
    | .error e => .error e
    | .ok Q => dbl p a Q

/-- The curve `y² = x³ + ax + b` over the integers modulo `p` (spec/00_scope.md rule R1), in Mathlib's terms. -/
def curveOf (p a b : Nat) : WeierstrassCurve.Affine (ZMod p) :=
  { a₁ := 0, a₂ := 0, a₃ := 0, a₄ := (a : ZMod p), a₆ := (b : ZMod p) }

/-- The reduced register pair `P` stands for the point `X` of the curve: the sentinel for the point at infinity, the
coordinates for a finite point (spec/10_state.md rule R25). -/
def denotes {p a b : Nat} [Fact p.Prime] (P : Point) (X : (curveOf p a b).Point) : Prop :=
  match X with
  | .zero => P = Point.ident
  | .some x y _ => P.reduced p ∧ (P.x : ZMod p) = x ∧ (P.y : ZMod p) = y

/-- The bytes of the window outside a register's slot and outside `STATUS`, `ERRCODE`, `ESTICKY`. -/
def outside (slots : List DataReg) (off : Nat) : Prop :=
  ¬ (0x10 ≤ off ∧ off < 0x1C) ∧ ∀ r ∈ slots, ¬ (r.slot ≤ off ∧ off < r.slot + 0x100)

/-- What every completion leaves alone: the parameters, the schedule, `CMD`, the host's last read, `WIGN`. -/
def keepsControl (s t : State) : Prop :=
  t.cfg = s.cfg ∧ t.turns = s.turns ∧ t.cmd = s.cmd ∧ t.rdata = s.rdata ∧ t.status.wign = s.status.wign

end Sys2Proof.Machine

open Sys2Proof Sys2Proof.Machine

/-! ## Encoding -/

/-- The example words of spec/30_encoding.md rule R97 decode to the commands they stand for. -/
def Obligations.SpecWordsDecode : Prop :=
  decode 0x30012000#32 = .ok (.padd .p0 .p1 .p2) ∧ decode 0x31330000#32 = .ok (.pdbl .p3 .p3) ∧
  decode 0x40010000#32 = .ok (.pmul .p0 .p1) ∧ decode 0x20100000#32 = .ok (.finv .f1 .f0) ∧
  decode 0x13220000#32 = .ok (.pneg .p2 .p2) ∧ decode 0x10012000#32 = .ok (.peq .p1 .p2) ∧
  decode 0x02100000#32 = .ok (.pldg .p1) ∧ decode 0x01000000#32 = .ok .dominit ∧ decode 0x00000000#32 = .ok .nop

/-- Every command survives encoding and decoding, with every operand at every value. -/
def Obligations.DecodeOfEncode : Prop := ∀ i : Instr, decode (encode i) = .ok i

/-- Each command has one word: a word that decodes is the encoding of what it decodes to. -/
def Obligations.EncodeOfDecode : Prop := ∀ (w : Word) (i : Instr), decode w = .ok i → encode i = w

/-- spec/30_encoding.md rule R98 with the `OP` values of rule R93, for all fifteen commands; unused selectors are 0. -/
def Obligations.EncodingFunction : Prop :=
  ∀ (d a b : PReg) (e f g : FReg),
    (encode .nop).toNat = 0 ∧
    (encode .dominit).toNat = 0x01 * 2 ^ 24 ∧
    (encode (.pldg d)).toNat = 0x02 * 2 ^ 24 + d.number * 2 ^ 20 ∧
    (encode (.peq a b)).toNat = 0x10 * 2 ^ 24 + a.number * 2 ^ 16 + b.number * 2 ^ 12 ∧
    (encode (.psxdy a b)).toNat = 0x11 * 2 ^ 24 + a.number * 2 ^ 16 + b.number * 2 ^ 12 ∧
    (encode (.pisid a)).toNat = 0x12 * 2 ^ 24 + a.number * 2 ^ 16 ∧
    (encode (.pneg d a)).toNat = 0x13 * 2 ^ 24 + d.number * 2 ^ 20 + a.number * 2 ^ 16 ∧
    (encode (.fred e f)).toNat = 0x18 * 2 ^ 24 + e.number * 2 ^ 20 + f.number * 2 ^ 16 ∧
    (encode (.fneg e f)).toNat = 0x19 * 2 ^ 24 + e.number * 2 ^ 20 + f.number * 2 ^ 16 ∧
    (encode (.fcmp f g)).toNat = 0x1A * 2 ^ 24 + f.number * 2 ^ 16 + g.number * 2 ^ 12 ∧
    (encode (.pred d a)).toNat = 0x1B * 2 ^ 24 + d.number * 2 ^ 20 + a.number * 2 ^ 16 ∧
    (encode (.finv e f)).toNat = 0x20 * 2 ^ 24 + e.number * 2 ^ 20 + f.number * 2 ^ 16 ∧
    (encode (.padd d a b)).toNat = 0x30 * 2 ^ 24 + d.number * 2 ^ 20 + a.number * 2 ^ 16 + b.number * 2 ^ 12 ∧
    (encode (.pdbl d a)).toNat = 0x31 * 2 ^ 24 + d.number * 2 ^ 20 + a.number * 2 ^ 16 ∧
    (encode (.pmul d a)).toNat = 0x40 * 2 ^ 24 + d.number * 2 ^ 20 + a.number * 2 ^ 16

/-- The decoder and the match and mask table of spec/30_encoding.md rule R93 agree on all 2^32 words, and the rows are
disjoint. -/
def Obligations.OpcodeTableAgrees : Prop :=
  (∀ (w : Word) (i : Instr), decode w = .ok i → i.row ∈ opcodeRows ∧ i.row.hit w = true) ∧
  (∀ w : Word, legalWord w = true → ∃ i, decode w = .ok i) ∧
  (∀ w : Word, ∀ r ∈ opcodeRows, ∀ q ∈ opcodeRows, r.hit w = true → q.hit w = true → r = q)

/-- spec/30_encoding.md rule R94: which words are illegal, that decoding is total, and what an accepted illegal word
does. -/
def Obligations.IllegalWords : Prop :=
  (∀ w : Word, (∃ e, decode w = .error e) ↔ illegalNumber w.toNat) ∧
  (∀ s : State, s.status.busy = true → s.coreNext = true → illegalNumber s.cmd.toNat →
    step s = .next (errorOf (afterTurn s) .illegalCommand))

/-! ## Steps -/

/-- When the core has the turn and the pending word decodes, the step is the meaning of the command in that state, the
turn taken off the schedule; and a command placed by `withFetchWord` is the next thing that runs. -/
def Obligations.StepRunsPendingCommand : Prop :=
  (∀ (s : State) (i : Instr), s.status.busy = true → s.coreNext = true → decode s.cmd = .ok i →
    step s = exec i (afterTurn s)) ∧
  (∀ (s : State) (w : Nat) (i : Instr), decodeTableWord 32 w = some i →
    step (s.withFetchWord 32 w) = exec i
      { s with
        cmd := BitVec.ofNat 32 w
        status := { s.status with busy := true, done := false, err := false }
        errcode := none })

/-- spec/20_memory.md rule R69: exactly the aligned 32-bit accesses inside the window have a step. That the others are
faults is the model's choice among what the rule allows (log 7). -/
def Obligations.MalformedAccessHasNoStep : Prop :=
  ∀ (s : State) (addr size : Nat) (v : Word),
    s.turns.head? = some (.hostRead addr size) ∨ s.turns.head? = some (.hostWrite addr size v) →
    ((∃ f, step s = .fault f) ↔ ¬ ∃ off, wordOffset off ∧ addr = s.cfg.base + off ∧ size = 4) ∧
    ((∃ t, step s = .next t) ↔ ∃ off, wordOffset off ∧ addr = s.cfg.base + off ∧ size = 4)

/-- spec/20_memory.md rule R65 and spec/70_reset_and_hazards.md rule R210: whatever the word in `CMD` and whatever the
registers hold, the completion step ends with the command done and its outcome recorded. -/
def Obligations.PendingCommandCompletes : Prop :=
  ∀ s : State, s.status.busy = true → s.coreNext = true →
    ∃ t, step s = .next t ∧ t.status.busy = false ∧ t.status.done = true ∧
      (t.status.err = true ↔ t.errcode ≠ none) ∧ keepsControl (afterTurn s) t

/-! ## Reset -/

/-- What a hard reset leaves from any state, and that `State.reset` is such a state, from spec/10_state.md rule R45. That
the parameters stay is log 19; that `State.reset` has `BASE = 0` is the model's DESIGN CHOICE of log 1, since
spec/00_scope.md rule R6 leaves `BASE` open. -/
def Obligations.ResetValues : Prop :=
  (∀ s : State, s.turns.head? = some .hardReset → ∃ t, step s = .next t ∧ resetRegisters s.cfg t) ∧
  resetRegisters ⟨512, 512, 0⟩ State.reset

/-- spec/10_state.md rule R33 and spec/70_reset_and_hazards.md rule R201: a write to `CTRL` with bit 0 = 1 is a hard reset
in that one step, at any time, and zeroes `K` and every point and field register; with bit 0 = 0 it does nothing; `CTRL`
reads 0. -/
def Obligations.ControlWrite : Prop :=
  (∀ (s : State) (v : Word), writesNext s 0x0C v → v.getLsbD 0 = true →
    step s = step { s with turns := .hardReset :: s.turns.tail } ∧
    ∃ t, step s = .next t ∧ t.k = 0 ∧ (∀ r, t.point r = Point.ident) ∧ (∀ r, t.field r = 0)) ∧
  (∀ (s : State) (v : Word), writesNext s 0x0C v → v.getLsbD 0 = false → step s = .next (afterTurn s)) ∧
  (∀ s : State, s.readWord 0x0C = 0#32)

/-- A reset while a command is pending leaves the reset state with nothing pending; a later turn of the core completes
nothing (spec/70_reset_and_hazards.md rule R202). That the reset keeps the parameters, the rest of the schedule and the
host's last read is log 19; that a turn of the idle core answers a next state with nothing changed is the model's DESIGN
CHOICE of log 5. -/
def Obligations.ResetAbandonsCommand : Prop :=
  ∀ s : State, s.nextResets = true → s.status.busy = true →
    ∃ t, step s = .next t ∧ t = { State.resetOf s.cfg with turns := s.turns.tail, rdata := s.rdata } ∧
      t.status.done = false ∧ t.errcode = none ∧
      (t.coreNext = true → step t = .next (afterTurn t))

/-! ## The window -/

/-- spec/20_memory.md rules R61 to R63: what a host read returns from every slot and from every control register; it
changes no register, whatever `BUSY` is. (Where the model keeps the value returned is its own choice, log 9.) -/
def Obligations.HostReadReturnsWord : Prop :=
  ∀ s : State, s.cfg.wellFormed = true →
    (∀ (r : DataReg) (n : Nat), n < 64 → readsNext s (r.slot + 4 * n) →
      step s = .next { afterTurn s with
        rdata := some (if n < r.words s.cfg then BitVec.ofNat 32 (s.dataReg r / 2 ^ (32 * n)) else 0#32) }) ∧
    (∀ (off : Nat) (w : Word), readsNext s off →
      (off, w) ∈ [(0x00, 0x45435041#32), (0x04, 0x00010000#32), (0x08, BitVec.ofNat 32 (s.cfg.kw * 65536 + s.cfg.w)),
        (0x0C, 0#32), (0x10, s.status.word), (0x14, errcodeWord s.errcode), (0x18, s.esticky.word),
        (0x1C, s.flags.word), (0x20, s.cmd)] →
      step s = .next { afterTurn s with rdata := some w })

/-- spec/10_state.md rule R32. -/
def Obligations.ConstantRegisters : Prop :=
  (∀ s : State, s.readWord 0x00 = 0x45435041#32 ∧ s.readWord 0x04 = 0x00010000#32) ∧
  (∀ s : State, s.cfg.wellFormed = true →
    (s.readWord 0x08).toNat % 65536 = s.cfg.w ∧ (s.readWord 0x08).toNat / 65536 = s.cfg.kw) ∧
  State.reset.readWord 0x08 = 0x02000200#32

/-- spec/10_state.md rules R34, R36, R38: the bit every field of `STATUS`, `ERRCODE` and `FLAGS` reads at, the reserved
bits read 0, and a write to `STATUS` clears each of `DONE`, `ERR`, `WIGN` whose bit is 1 and nothing else. -/
def Obligations.StatusRegisterFields : Prop :=
  (∀ (s : State) (n : Nat),
    ((s.readWord 0x10).getLsbD n = true ↔
      (n = 0 ∧ s.status.busy = true) ∨ (n = 1 ∧ s.status.done = true) ∨ (n = 2 ∧ s.status.err = true) ∨
      (n = 3 ∧ s.status.domv = true) ∨ (n = 4 ∧ s.status.fatal = true) ∨ (n = 5 ∧ s.status.wign = true)) ∧
    ((s.readWord 0x1C).getLsbD n = true ↔
      (n = 0 ∧ s.flags.eq = true) ∨ (n = 1 ∧ s.flags.sxdy = true) ∨ (n = 2 ∧ s.flags.id = true) ∨
      (n = 3 ∧ s.flags.flt = true) ∨ (n = 4 ∧ s.flags.feq = true)) ∧
    ((s.readWord 0x14).toNat = match s.errcode with
      | none => 0
      | some .invalidCurveParameter => 1
      | some .noInverse => 2
      | some .illegalCommand => 3
      | some .domainNotValid => 4
      | some .domainLocked => 5)) ∧
  (∀ (s : State) (v : Word), writesNext s 0x10 v →
    step s = .next { afterTurn s with
      status := {
        busy := s.status.busy
        done := s.status.done && !v.getLsbD 1
        err := s.status.err && !v.getLsbD 2
        domv := s.status.domv
        fatal := s.status.fatal
        wign := s.status.wign && !v.getLsbD 5 } })

/-- spec/20_memory.md rule R66 (with rule R62 for the effect): a write to a word of a data register is ignored, and sets
`WIGN`, exactly while `BUSY` or for a domain register while `DOMV`; in every other case that word is replaced and nothing
else changes. Writes to `CTRL` and `STATUS` are never ignored, whatever `BUSY` and `DOMV` are. -/
def Obligations.DataWordWrite : Prop :=
  (∀ (s : State) (r : DataReg) (n : Nat) (v : Word), s.cfg.wellFormed = true → n < r.words s.cfg →
    writesNext s (r.slot + 4 * n) v →
    (s.status.busy = true ∨ (r ∈ domainRegs ∧ s.status.domv = true) →
      step s = .next { afterTurn s with status := { s.status with wign := true } }) ∧
    (¬ (s.status.busy = true ∨ (r ∈ domainRegs ∧ s.status.domv = true)) →
      ∃ x, step s = .next ((afterTurn s).setDataReg r x) ∧ BitVec.ofNat 32 (x / 2 ^ (32 * n)) = v ∧
        ∀ m, m ≠ n → BitVec.ofNat 32 (x / 2 ^ (32 * m)) = BitVec.ofNat 32 (s.dataReg r / 2 ^ (32 * m)))) ∧
  (∀ (s : State) (v : Word), writesNext s 0x0C v → v.getLsbD 0 = true →
    ∃ t, step s = .next t ∧ t.status.wign = false ∧ ∀ r, t.dataReg r = 0) ∧
  (∀ (s : State) (v : Word), writesNext s 0x10 v →
    ∃ t, step s = .next t ∧
      (t.status.done = true ↔ s.status.done = true ∧ v.getLsbD 1 = false) ∧
      (t.status.err = true ↔ s.status.err = true ∧ v.getLsbD 2 = false) ∧
      (t.status.wign = true ↔ s.status.wign = true ∧ v.getLsbD 5 = false))

/-- spec/20_memory.md rule R62: a register within its width is the sum of its words, each at its weight. -/
def Obligations.ValueIsSumOfWords : Prop :=
  ∀ (s : State) (r : DataReg), s.cfg.wellFormed = true → s.dataReg r < 2 ^ r.width s.cfg →
    ∑ n ∈ Finset.range (r.words s.cfg), (s.readWord (r.slot + 4 * n)).toNat * 2 ^ (32 * n) = s.dataReg r

/-- spec/30_encoding.md rule R100, `WR reg, value` on a wide register: its word writes, word 0 first, leave the register
with that value and change nothing else, when none of them is ignored. -/
def Obligations.ScriptWriteStoresValue : Prop :=
  ∀ (s : State) (r : DataReg) (v : Nat) (rest : List Turn), s.cfg.wellFormed = true →
    s.dataReg r < 2 ^ r.width s.cfg → v < 2 ^ r.width s.cfg → s.status.busy = false →
    (r ∈ domainRegs → s.status.domv = false) → s.turns = writeTurns s.cfg (.data r) v ++ rest →
    Host.Core.run Sys2Proof.core (r.words s.cfg) s = .next ({ s with turns := rest }.setDataReg r v)

/-- spec/10_state.md rule R40. -/
def Obligations.ReadOnlyRegistersIgnoreWrites : Prop :=
  ∀ (s : State) (off : Nat) (v : Word), off ∈ [0x00, 0x04, 0x08, 0x14, 0x18, 0x1C] → writesNext s off v →
    step s = .next (afterTurn s)

/-- spec/20_memory.md rule R67: the words that are no control register and no word of a data register read 0 and ignore
writes, with no effect on `WIGN`; and the words `N` to 63 of every slot are such. -/
def Obligations.ReservedWords : Prop :=
  (∀ (s : State) (off : Nat), wordOffset off → off ∉ controlOffsets →
    (∀ (r : DataReg) (n : Nat), n < r.words s.cfg → off ≠ r.slot + 4 * n) →
    s.readWord off = 0#32 ∧ ∀ v, writesNext s off v → step s = .next (afterTurn s)) ∧
  (∀ (s : State) (r : DataReg) (n : Nat), s.cfg.wellFormed = true → r.words s.cfg ≤ n → n < 64 →
    wordOffset (r.slot + 4 * n) ∧ r.slot + 4 * n ∉ controlOffsets ∧
    ∀ (q : DataReg) (m : Nat), m < q.words s.cfg → r.slot + 4 * n ≠ q.slot + 4 * m)

/-- spec/10_state.md rule R39 (with the issue of spec/20_memory.md rule R64): a write to `CMD` is the issue of a command
unless `BUSY` or `FATAL`, and is then ignored and sets `WIGN`; `CMD` reads the last accepted word, 0 after reset; nothing
else changes it. -/
def Obligations.CommandRegister : Prop :=
  (∀ (s : State) (v : Word), writesNext s 0x20 v → s.status.busy = false → s.status.fatal = false →
    step s = .next { afterTurn s with
      cmd := v
      status := { s.status with busy := true, done := false, err := false }
      errcode := none }) ∧
  (∀ (s : State) (v : Word), writesNext s 0x20 v → s.status.busy = true ∨ s.status.fatal = true →
    step s = .next { afterTurn s with status := { s.status with wign := true } }) ∧
  (∀ s : State, s.readWord 0x20 = s.cmd) ∧
  (∀ s t : State, s.turns.head? = some .hardReset → step s = .next t → t.readWord 0x20 = 0#32) ∧
  (∀ s t : State, step s = .next t → t.cmd ≠ s.cmd →
    s.nextResets = true ∨
    (writesNext s 0x20 t.cmd ∧ s.status.busy = false ∧ s.status.fatal = false))

/-! ## Errors -/

/-- spec/60_exceptions.md rule R186: a completion that ends in an error makes exactly the status update of that error and
changes nothing else: no destination, no flag, no source, no domain register, not `K`. -/
def Obligations.ErrorEntry : Prop :=
  ∀ s t : State, s.status.busy = true → s.coreNext = true → step s = .next t → t.status.err = true →
    ∃ e, t = errorOf (afterTurn s) e

/-- spec/60_exceptions.md rules R180, R183, R184: the codes, which command raises which error, and when the three errors
that do not depend on operands are raised. -/
def Obligations.ErrorsByCommand : Prop :=
  ([.invalidCurveParameter, .noInverse, .illegalCommand, .domainNotValid, .domainLocked].map ErrorCode.code =
    [1, 2, 3, 4, 5]) ∧
  (∀ (i : Instr) (s t : State), exec i s = .next t →
    (t.errcode = some .invalidCurveParameter → i = .dominit ∧ s.status.domv = false) ∧
    (t.errcode = some .noInverse → i.inverts = true ∧ s.status.domv = true) ∧
    t.errcode ≠ some .illegalCommand ∧
    (t.errcode = some .domainNotValid ↔ i.needsDomain = true ∧ s.status.domv = false) ∧
    (t.errcode = some .domainLocked ↔ i = .dominit ∧ s.status.domv = true)) ∧
  (∀ (i : Instr) (s : State), i.needsDomain = true → s.status.domv = false →
    exec i s = .next (errorOf s .domainNotValid)) ∧
  (∀ s : State, s.status.domv = true → exec .dominit s = .next (errorOf s .domainLocked)) ∧
  (∀ s : State, s.status.busy = true → s.coreNext = true → (∃ e, decode s.cmd = .error e) →
    step s = .next (errorOf (afterTurn s) .illegalCommand))

/-- spec/60_exceptions.md rule R187: once `FATAL`, no command of any kind runs until a reset; a write to `CMD` only sets
`WIGN`; a reset leaves it. -/
def Obligations.FatalStopsCommands : Prop :=
  (∀ s t : State, s.status.fatal = true → s.status.busy = false → s.nextResets = false → step s = .next t →
    t.status.fatal = true ∧ t.status.busy = false ∧ t.status.domv = s.status.domv ∧ t.cmd = s.cmd ∧
    t.errcode = s.errcode ∧ t.esticky = s.esticky ∧ t.flags = s.flags ∧
    ((∃ v, writesNext s 0x20 v) → t.status.wign = true)) ∧
  (∀ s : State, s.nextResets = true → ∃ t, step s = .next t ∧ t.status.fatal = false)

/-! ## Rules of the whole machine -/

/-- The invariant holds after reset of every well-formed instance, whatever is scheduled. -/
def Obligations.InvariantAtReset : Prop :=
  ∀ (c : Config) (ts : List Turn), c.wellFormed = true → Inv { State.resetOf c with turns := ts }

/-- Every step keeps the invariant, from every state that meets it: registers within their widths (spec/00_scope.md rule
R9), the invariants of `STATUS` (spec/10_state.md rule R35), a valid domain that passed its check (rule R23), and every
error recorded. -/
def Obligations.InvariantKept : Prop := ∀ s t : State, Inv s → step s = .next t → Inv t

/-- spec/10_state.md rule R35: its four invariants hold at reset and every step keeps them. -/
def Obligations.StatusInvariantsKept : Prop :=
  (∀ s t : State, StatusInv s → step s = .next t → StatusInv t) ∧
  (∀ (c : Config) (ts : List Turn), StatusInv { State.resetOf c with turns := ts })

/-- spec/10_state.md rule R22: while `DOMV = 1` no step but a reset changes `DOMV` or a domain register. -/
def Obligations.DomainFrozenWhileValid : Prop :=
  ∀ s t : State, step s = .next t → s.status.domv = true → s.nextResets = false →
    t.status.domv = true ∧ ∀ r ∈ domainRegs, t.dataReg r = s.dataReg r

/-- spec/10_state.md rule R34: `DOMV` and `FATAL` rise only in the completion of a `DOMINIT`, the one when the modulus is
prime and `b` is not divisible by it, the other when not. -/
def Obligations.DomainBitsRiseOnlyByDominit : Prop :=
  ∀ s t : State, step s = .next t →
    (s.status.domv = false → t.status.domv = true →
      s.status.busy = true ∧ s.coreNext = true ∧ decode s.cmd = .ok .dominit ∧
      Nat.Prime s.dp ∧ s.db % s.dp ≠ 0) ∧
    (s.status.fatal = false → t.status.fatal = true →
      s.status.busy = true ∧ s.coreNext = true ∧ decode s.cmd = .ok .dominit ∧ s.status.domv = false ∧
      ¬ (Nat.Prime s.dp ∧ s.db % s.dp ≠ 0))

/-- spec/10_state.md rule R37: bit `n` of `ESTICKY` is set when a command completes with error code `n`, by nothing else,
and is cleared by nothing but a reset; the other bits read 0. -/
def Obligations.StickyErrorsOnlyGrow : Prop :=
  (∀ (s t : State) (e : ErrorCode), step s = .next t → s.nextResets = false →
    (t.esticky.bit e = true ↔
      s.esticky.bit e = true ∨ (s.status.busy = true ∧ s.coreNext = true ∧ t.errcode = some e))) ∧
  (∀ (s t : State) (e : ErrorCode), step s = .next t → s.nextResets = true → t.esticky.bit e = false) ∧
  (∀ (s : State) (n : Nat), (s.readWord 0x18).getLsbD n = true ↔ ∃ e : ErrorCode, e.code = n ∧ s.esticky.bit e = true)

/-- spec/10_state.md rule R38: a flag changes only when the compare command that owns it completes without error; every
other step but a reset leaves all flags. -/
def Obligations.FlagsOwnedByCompares : Prop :=
  ∀ s t : State, step s = .next t → s.nextResets = false →
    t.flags = s.flags ∨
    (s.status.busy = true ∧ s.coreNext = true ∧ t.status.err = false ∧
      ((∃ ra rb, decode s.cmd = .ok (.peq ra rb) ∧ t.flags = { s.flags with eq := t.flags.eq }) ∨
       (∃ ra rb, decode s.cmd = .ok (.psxdy ra rb) ∧ t.flags = { s.flags with sxdy := t.flags.sxdy }) ∨
       (∃ ra, decode s.cmd = .ok (.pisid ra) ∧ t.flags = { s.flags with id := t.flags.id }) ∨
       (∃ ra rb, decode s.cmd = .ok (.fcmp ra rb) ∧
          t.flags = { s.flags with flt := t.flags.flt, feq := t.flags.feq })))

/-- spec/20_memory.md rule R73 (2) and spec/70_reset_and_hazards.md rule R205: a host access between the issue of a command
and its completion, short of a reset, changes nothing of the command's results; only `WIGN` and what the host read can
differ. -/
def Obligations.AccessWhileBusyDoesNotAffectCommand : Prop :=
  ∀ (s s₁ : State) (a : Turn) (rest : List Turn), s.status.busy = true → s.turns = a :: .core :: rest →
    a.resets s.cfg = false → step s = .next s₁ →
    ∃ t t₁, step { s with turns := .core :: rest } = .next t ∧ step s₁ = .next t₁ ∧
      t₁ = { t with status := { t.status with wign := t₁.status.wign }, rdata := t₁.rdata }

/-! ## The commands -/

/-- `NOP` (spec/40_domain_point.md rule R111): its word, its completion whatever `DOMV` is, and the rule's example from
reset, `STATUS = 2` and `ERRCODE = 0`. -/
def Obligations.NopCompletes : Prop :=
  encode .nop = 0#32 ∧ (∀ s : State, exec .nop s = .next (successOf s)) ∧
  ∀ s : State, writesNext s 0x20 (encode .nop) → s.status.busy = false → s.status.fatal = false →
    s.turns.tail.head? = some .core →
    ∃ t u, step s = .next t ∧ t.status.done = false ∧ t.status.err = false ∧ t.errcode = none ∧
      step t = .next u ∧ u.status.done = true ∧ u.status.err = false ∧ u.readWord 0x14 = 0#32 ∧
      (s.readWord 0x10 = 0#32 → u.readWord 0x10 = 0x00000002#32)

/-- `DOMINIT` (spec/40_domain_point.md rule R112, spec/60_exceptions.md rule R181), with the primality predicate of
spec/00_scope.md rule R8 written out. -/
def Obligations.DominitDecidesDomain : Prop :=
  encode .dominit = 0x01000000#32 ∧
  ∀ s : State,
    (s.status.domv = true → exec .dominit s = .next (errorOf s .domainLocked)) ∧
    (s.status.domv = false → (2 ≤ s.dp ∧ ∀ d, d ∣ s.dp → d = 1 ∨ d = s.dp) → s.db % s.dp ≠ 0 →
      exec .dominit s = .next (successOf { s with status := { s.status with domv := true } })) ∧
    (s.status.domv = false → ¬ ((2 ≤ s.dp ∧ ∀ d, d ∣ s.dp → d = 1 ∨ d = s.dp) ∧ s.db % s.dp ≠ 0) →
      exec .dominit s = .next (errorOf s .invalidCurveParameter))

/-- `PLDG` (spec/40_domain_point.md rule R113). -/
def Obligations.PldgCopiesGenerator : Prop :=
  ∀ (s : State) (rd : PReg),
    (encode (.pldg rd)).toNat = 0x02000000 + rd.number * 2 ^ 20 ∧
    (s.status.domv = true → exec (.pldg rd) s = .next (successOf (s.setPoint rd ⟨s.dgx, s.dgy⟩))) ∧
    (s.status.domv = false → exec (.pldg rd) s = .next (errorOf s .domainNotValid))

/-- `PEQ`, `PSXDY`, `PISID` (spec/40_domain_point.md rules R114 to R116, R118 to R120): raw comparisons, whatever `DOMV`
is; each writes its own flag only. -/
def Obligations.PointPredicates : Prop :=
  ∀ (s : State) (ra rb : PReg),
    (encode (.peq ra rb)).toNat = 0x10000000 + ra.number * 2 ^ 16 + rb.number * 2 ^ 12 ∧
    (encode (.psxdy ra rb)).toNat = 0x11000000 + ra.number * 2 ^ 16 + rb.number * 2 ^ 12 ∧
    (encode (.pisid ra)).toNat = 0x12000000 + ra.number * 2 ^ 16 ∧
    exec (.peq ra rb) s = .next (successOf { s with
      flags := { s.flags with eq := decide ((s.point ra).x = (s.point rb).x ∧ (s.point ra).y = (s.point rb).y) } }) ∧
    exec (.psxdy ra rb) s = .next (successOf { s with
      flags := { s.flags with sxdy := decide ((s.point ra).x = (s.point rb).x ∧ (s.point ra).y ≠ (s.point rb).y) } }) ∧
    exec (.pisid ra) s = .next (successOf { s with
      flags := { s.flags with id := decide ((s.point ra).x = 0 ∧ (s.point ra).y = 0) } })

/-- `PNEG` (spec/40_domain_point.md rules R117, R121): `x` passes through raw, `y` becomes the residue of `-y`. -/
def Obligations.PnegNegates : Prop :=
  ∀ (s : State) (rd ra : PReg),
    (encode (.pneg rd ra)).toNat = 0x13000000 + rd.number * 2 ^ 20 + ra.number * 2 ^ 16 ∧
    (s.status.domv = true → 0 < s.dp → exec (.pneg rd ra) s = .next (successOf
      (s.setPoint rd ⟨(s.point ra).x, (s.dp - (s.point ra).y % s.dp) % s.dp⟩))) ∧
    (s.status.domv = false → exec (.pneg rd ra) s = .next (errorOf s .domainNotValid))

/-- `FRED` and `FNEG` (spec/41_field_reduce_compare.md rules R132, R133). -/
def Obligations.FieldReduceAndNegate : Prop :=
  ∀ (s : State) (rd ra : FReg),
    (encode (.fred rd ra)).toNat = 0x18000000 + rd.number * 2 ^ 20 + ra.number * 2 ^ 16 ∧
    (encode (.fneg rd ra)).toNat = 0x19000000 + rd.number * 2 ^ 20 + ra.number * 2 ^ 16 ∧
    (s.status.domv = true → 0 < s.dp →
      exec (.fred rd ra) s = .next (successOf (s.setField rd (s.field ra % s.dp))) ∧
      exec (.fneg rd ra) s = .next (successOf (s.setField rd ((s.dp - s.field ra % s.dp) % s.dp)))) ∧
    (s.status.domv = false →
      exec (.fred rd ra) s = .next (errorOf s .domainNotValid) ∧
      exec (.fneg rd ra) s = .next (errorOf s .domainNotValid))

/-- `FCMP` (spec/41_field_reduce_compare.md rule R134): both flags, unsigned, raw, whatever `DOMV` is. -/
def Obligations.FcmpCompares : Prop :=
  ∀ (s : State) (ra rb : FReg),
    (encode (.fcmp ra rb)).toNat = 0x1A000000 + ra.number * 2 ^ 16 + rb.number * 2 ^ 12 ∧
    exec (.fcmp ra rb) s = .next (successOf { s with
      flags := { s.flags with flt := decide (s.field ra < s.field rb), feq := decide (s.field ra = s.field rb) } })

/-- `PRED` (spec/41_field_reduce_compare.md rule R135). -/
def Obligations.PredReduces : Prop :=
  ∀ (s : State) (rd ra : PReg),
    (encode (.pred rd ra)).toNat = 0x1B000000 + rd.number * 2 ^ 20 + ra.number * 2 ^ 16 ∧
    (s.status.domv = true → 0 < s.dp → exec (.pred rd ra) s = .next (successOf
      (s.setPoint rd ⟨(s.point ra).x % s.dp, (s.point ra).y % s.dp⟩))) ∧
    (s.status.domv = false → exec (.pred rd ra) s = .next (errorOf s .domainNotValid))

/-- `FINV` (spec/42_modular_inverse.md rule R143): the inverse in `[1, p-1]`, or `NoInverse` for a multiple of `p`, the
destination unchanged. -/
def Obligations.FinvInverts : Prop :=
  ∀ (s : State) (rd ra : FReg),
    (encode (.finv rd ra)).toNat = 0x20000000 + rd.number * 2 ^ 20 + ra.number * 2 ^ 16 ∧
    (s.status.domv = true → Nat.Prime s.dp → s.field ra % s.dp ≠ 0 →
      ∃ x, 0 < x ∧ x < s.dp ∧ s.field ra * x % s.dp = 1 ∧
        exec (.finv rd ra) s = .next (successOf (s.setField rd x))) ∧
    (s.status.domv = true → Nat.Prime s.dp → s.field ra % s.dp = 0 →
      exec (.finv rd ra) s = .next (errorOf s .noInverse)) ∧
    (s.status.domv = false → exec (.finv rd ra) s = .next (errorOf s .domainNotValid))

/-- spec/42_modular_inverse.md rule R142 with rule R140's failure: for a prime modulus `inverse` raises exactly on the
multiples of `p` and else returns the one inverse in `[1, p-1]`; and the consequences the rule lists. -/
def Obligations.InverseLaws : Prop :=
  ∀ (p : Nat) (v : Int), Nat.Prime p →
    ((p : Int) ∣ v → inverse p v = .error .noInverse) ∧
    (¬ (p : Int) ∣ v → ∃ x : Nat, inverse p v = .ok x ∧ 0 < x ∧ x < p ∧ v * x % p = 1 ∧
      ∀ y : Nat, 0 < y → y < p → v * y % p = 1 → y = x) ∧
    inverse p 1 = .ok 1 ∧ inverse p (p - 1) = .ok (p - 1) ∧
    (∀ x : Nat, inverse p v = .ok x → inverse p x = .ok (v % p).toNat) ∧
    inverse p v = inverse p (v + p) ∧
    (p = 2 → (v % 2 = 1 → inverse p v = .ok 1) ∧ (v % 2 = 0 → inverse p v = .error .noInverse))

/-- spec/00_scope.md rule R8: the decision of `DOMINIT` is the predicate. -/
def Obligations.PrimalityIsExact : Prop :=
  ∀ n : Nat, isPrime n = true ↔ 2 ≤ n ∧ ∀ d, d ∣ n → d = 1 ∨ d = n

/-- `PDBL` (spec/43_point_add_double.md rules R150, R155), every case: the sentinel, `2y ≡ 0`, and the tangent. -/
def Obligations.PdblDoubles : Prop :=
  ∀ (s : State) (rd ra : PReg),
    (encode (.pdbl rd ra)).toNat = 0x31000000 + rd.number * 2 ^ 20 + ra.number * 2 ^ 16 ∧
    (s.status.domv = true → s.point ra = ⟨0, 0⟩ →
      exec (.pdbl rd ra) s = .next (successOf (s.setPoint rd ⟨0, 0⟩))) ∧
    (s.status.domv = true → Nat.Prime s.dp → s.point ra ≠ ⟨0, 0⟩ → s.dp ∣ 2 * (s.point ra).y →
      exec (.pdbl rd ra) s = .next (errorOf s .noInverse)) ∧
    (s.status.domv = true → Nat.Prime s.dp → ¬ s.dp ∣ 2 * (s.point ra).y →
      ∃ inv slope x3 y3 : Nat, inv < s.dp ∧ 2 * (s.point ra).y * inv % s.dp = 1 ∧
        slope = (3 * (s.point ra).x * (s.point ra).x + s.da) * inv % s.dp ∧
        (x3 : Int) = ((slope : Int) * slope - 2 * (s.point ra).x) % s.dp ∧
        (y3 : Int) = ((slope : Int) * ((s.point ra).x - x3) - (s.point ra).y) % s.dp ∧
        exec (.pdbl rd ra) s = .next (successOf (s.setPoint rd ⟨x3, y3⟩))) ∧
    (s.status.domv = false → exec (.pdbl rd ra) s = .next (errorOf s .domainNotValid))

/-- `PADD` (spec/43_point_add_double.md rules R152, R154), every case in SC's order: equal pairs double; the same x and
different y give the sentinel, before the identity is looked at; a sentinel operand gives the other operand unchanged; the
chord, or `NoInverse` when the x coordinates agree modulo `p`. -/
def Obligations.PaddAdds : Prop :=
  ∀ (s : State) (rd ra rb : PReg) (P Q : Point), s.point ra = P → s.point rb = Q →
    (encode (.padd rd ra rb)).toNat =
      0x30000000 + rd.number * 2 ^ 20 + ra.number * 2 ^ 16 + rb.number * 2 ^ 12 ∧
    (s.status.domv = true → P = Q → exec (.padd rd ra rb) s = exec (.pdbl rd ra) s) ∧
    (s.status.domv = true → P.x = Q.x → P.y ≠ Q.y →
      exec (.padd rd ra rb) s = .next (successOf (s.setPoint rd ⟨0, 0⟩))) ∧
    (s.status.domv = true → P.x ≠ Q.x → P = ⟨0, 0⟩ →
      exec (.padd rd ra rb) s = .next (successOf (s.setPoint rd Q))) ∧
    (s.status.domv = true → P.x ≠ Q.x → Q = ⟨0, 0⟩ →
      exec (.padd rd ra rb) s = .next (successOf (s.setPoint rd P))) ∧
    (s.status.domv = true → Nat.Prime s.dp → P.x ≠ Q.x → P ≠ ⟨0, 0⟩ → Q ≠ ⟨0, 0⟩ → P.x % s.dp = Q.x % s.dp →
      exec (.padd rd ra rb) s = .next (errorOf s .noInverse)) ∧
    (s.status.domv = true → Nat.Prime s.dp → P ≠ ⟨0, 0⟩ → Q ≠ ⟨0, 0⟩ → P.x % s.dp ≠ Q.x % s.dp →
      ∃ (dx dy : Int) (inv slope x3 y3 : Nat),
        (dx, dy) = (if (Q.x : Int) - P.x < 0 then ((P.x : Int) - Q.x, (P.y : Int) - Q.y)
          else ((Q.x : Int) - P.x, (Q.y : Int) - P.y)) ∧
        0 < dx ∧ inv < s.dp ∧ dx * inv % s.dp = 1 ∧ (slope : Int) = dy * inv % s.dp ∧
        (x3 : Int) = ((slope : Int) * slope - P.x - Q.x) % s.dp ∧
        (y3 : Int) = ((slope : Int) * (P.x - x3) - P.y) % s.dp ∧
        exec (.padd rd ra rb) s = .next (successOf (s.setPoint rd ⟨x3, y3⟩))) ∧
    (s.status.domv = false → exec (.padd rd ra rb) s = .next (errorOf s .domainNotValid))

/-- `PMUL` (spec/44_scalar_multiply.md rule R172): the scalar is `K`, which keeps its value; the destination is written
once, with `mul(K, P[RA])`, or not at all; `K = 0` and the sentinel give the sentinel. -/
def Obligations.PmulMultiplies : Prop :=
  ∀ (s : State) (rd ra : PReg),
    (encode (.pmul rd ra)).toNat = 0x40000000 + rd.number * 2 ^ 20 + ra.number * 2 ^ 16 ∧
    (∀ R, s.status.domv = true → mul s.dp s.da s.k (s.point ra) = .ok R →
      exec (.pmul rd ra) s = .next (successOf (s.setPoint rd R))) ∧
    (∀ e, s.status.domv = true → mul s.dp s.da s.k (s.point ra) = .error e →
      exec (.pmul rd ra) s = .next (errorOf s .noInverse)) ∧
    (s.status.domv = true → s.k = 0 ∨ s.point ra = ⟨0, 0⟩ →
      exec (.pmul rd ra) s = .next (successOf (s.setPoint rd ⟨0, 0⟩))) ∧
    (s.status.domv = false → exec (.pmul rd ra) s = .next (errorOf s .domainNotValid)) ∧
    (∀ t, exec (.pmul rd ra) s = .next t → t.k = s.k ∧ (rd ≠ ra → t.point ra = s.point ra))

/-- `PMUL` on a reduced point completes with a reduced result whenever the doublings of rule R170's loop, one for each
bit of `K`, all have an inverse: the additions of the loop raise nothing of their own (spec/43_point_add_double.md rule
R153, spec/44_scalar_multiply.md rule R170). -/
def Obligations.PmulCompletesWhenDoublingsDo : Prop :=
  ∀ (s : State) (rd ra : PReg) (D : Point), s.status.domv = true → Nat.Prime s.dp → (s.point ra).reduced s.dp →
    doublings s.dp s.da (s.point ra) (Nat.size s.k) = .ok D →
    ∃ R : Point, R.reduced s.dp ∧ exec (.pmul rd ra) s = .next (successOf (s.setPoint rd R))

/-! ## The arithmetic -/

/-- spec/44_scalar_multiply.md rule R170: `mul` is one pass per bit of the scalar, least significant first, addition
before doubling, the doubling in every pass. -/
def Obligations.MulIsFoldOverBits : Prop :=
  ∀ (p a k : Nat) (P : Point),
    mul p a k P = (List.foldlM (bitPass p a) (Point.ident, P) (Nat.bits k)).map Prod.fst

/-- spec/44_scalar_multiply.md rules R171, R174: the contracts of `mul`, and its corners at `K = 1`, at `x = 0` and at a
point whose doubling has no inverse. -/
def Obligations.MulContracts : Prop :=
  ∀ (p a k : Nat) (P : Point),
    mul p a 0 P = .ok ⟨0, 0⟩ ∧
    mul p a k ⟨0, 0⟩ = .ok ⟨0, 0⟩ ∧
    (∀ D, dbl p a P = .ok D → P.x ≠ 0 → mul p a 1 P = .ok P) ∧
    (∀ D, dbl p a P = .ok D → P.x = 0 → mul p a 1 P = .ok ⟨0, 0⟩) ∧
    (0 < p → p ∣ 2 * P.y → P ≠ ⟨0, 0⟩ → 0 < k → mul p a k P = .error .noInverse)

/-- spec/43_point_add_double.md rule R156 and spec/40_domain_point.md rule R121: reduced operands give reduced results. -/
def Obligations.ReducedOperandsGiveReducedResults : Prop :=
  ∀ (p a k : Nat) (P Q R : Point), Nat.Prime p → P.reduced p → Q.reduced p →
    (P.negate p).reduced p ∧
    (dbl p a P = .ok R → R.reduced p) ∧
    (add p a P Q = .ok R → R.reduced p) ∧
    (mul p a k P = .ok R → R.reduced p)

/-- spec/43_point_add_double.md rule R157: `add` commutes on all pairs, its errors included. -/
def Obligations.AddCommutes : Prop :=
  ∀ (p a : Nat) (P Q : Point), Nat.Prime p → add p a P Q = add p a Q P

/-- spec/43_point_add_double.md rules R158, R159: the exceptional operands, and the one place where the reduced `negate`
matters. -/
def Obligations.ExceptionalOperands : Prop :=
  ∀ (p a x y : Nat), 0 < p →
    (y ≠ 0 → add p a ⟨0, 0⟩ ⟨0, y⟩ = .ok ⟨0, 0⟩ ∧ add p a ⟨0, y⟩ ⟨0, 0⟩ = .ok ⟨0, 0⟩) ∧
    (x ≠ 0 → (⟨x, 0⟩ : Point).negate p = ⟨x, 0⟩ ∧ add p a ⟨x, 0⟩ ⟨x, 0⟩ = .error .noInverse ∧
      add p a ⟨x, 0⟩ ((⟨x, 0⟩ : Point).negate p) = .error .noInverse) ∧
    add p a ⟨0, 0⟩ ⟨0, 0⟩ = .ok ⟨0, 0⟩ ∧
    (0 < y → y < p → add p a ⟨x, p - y⟩ ((⟨x, y⟩ : Point).negate p) = dbl p a ⟨x, p - y⟩)

/-- spec/43_point_add_double.md rule R161, the identity that makes decryption undo encryption: for any pairs, on a curve
or not, adding `S` and then subtracting it gives the residues of `M`. -/
def Obligations.SubtractingUndoesAdding : Prop :=
  ∀ (p a : Nat) (S M R : Point), Nat.Prime p → S.x % p ≠ M.x % p → R.x % p ≠ S.x % p →
    S ≠ ⟨0, 0⟩ → M ≠ ⟨0, 0⟩ → R ≠ ⟨0, 0⟩ → S.negate p ≠ ⟨0, 0⟩ → add p a S M = .ok R →
    add p a R (S.negate p) = .ok ⟨M.x % p, M.y % p⟩

/-- spec/43_point_add_double.md rule R157: outside the exceptional operands of rule R158, `add` is the group law
of the elliptic curve, as Mathlib defines it. -/
def Obligations.AddIsTheGroupLaw : Prop :=
  ∀ (p a b : Nat) [Fact p.Prime] (P Q : Point) (X Y : (curveOf p a b).Point), p ≠ 2 → b % p ≠ 0 →
    denotes P X → denotes Q Y →
    ¬ (P = ⟨0, 0⟩ ∧ Q.x = 0 ∧ Q.y ≠ 0) → ¬ (Q = ⟨0, 0⟩ ∧ P.x = 0 ∧ P.y ≠ 0) →
    ¬ (P = Q ∧ P.x ≠ 0 ∧ P.y = 0) →
    ∃ R, add p a P Q = .ok R ∧ denotes R (X + Y)

/-- spec/44_scalar_multiply.md rule R176: when no multiple of `X` by a power of two that the loop meets is an
exceptional point, `mul` is the scalar multiple in the group of the elliptic curve. -/
def Obligations.MulIsTheGroupMultiple : Prop :=
  ∀ (p a b k : Nat) [Fact p.Prime] (P : Point) (X : (curveOf p a b).Point), p ≠ 2 → b % p ≠ 0 → denotes P X →
    (∀ j, j < Nat.size k → ∀ Q : Point, denotes Q ((2 ^ j) • X) → Q = ⟨0, 0⟩ ∨ (Q.x ≠ 0 ∧ Q.y ≠ 0)) →
    ∃ R, mul p a k P = .ok R ∧ denotes R (k • X)

/-! ## Frames -/

/-- `FRED`, `FNEG`, `FINV`: what they leave unchanged (spec/40_domain_point.md rule R110): every register but the
destination, every flag, `DOMV`, `FATAL`, and every byte of the window outside the destination's slot and the outcome
registers. -/
def Obligations.FieldCommandsFrame : Prop :=
  ∀ (s t : State) (rd ra : FReg) (i : Instr), i ∈ [Instr.fred rd ra, .fneg rd ra, .finv rd ra] →
    exec i s = .next t →
    (∀ r, r ≠ .f rd → t.dataReg r = s.dataReg r) ∧ t.flags = s.flags ∧ t.status.domv = s.status.domv ∧
    t.status.fatal = s.status.fatal ∧ keepsControl s t ∧
    ∀ off, outside [.f rd] off → t.readByte off = s.readByte off

/-- `PLDG`, `PNEG`, `PRED`, `PADD`, `PDBL`, `PMUL`: what they leave unchanged (spec/40_domain_point.md rule R110). -/
def Obligations.PointCommandsFrame : Prop :=
  ∀ (s t : State) (rd ra rb : PReg) (i : Instr),
    i ∈ [Instr.pldg rd, .pneg rd ra, .pred rd ra, .padd rd ra rb, .pdbl rd ra, .pmul rd ra] →
    exec i s = .next t →
    (∀ r, r ≠ .px rd → r ≠ .py rd → t.dataReg r = s.dataReg r) ∧ t.flags = s.flags ∧
    t.status.domv = s.status.domv ∧ t.status.fatal = s.status.fatal ∧ keepsControl s t ∧
    ∀ off, outside [.px rd, .py rd] off → t.readByte off = s.readByte off

/-- `NOP`, `DOMINIT` and the four compares write no register of data at all: what they leave unchanged
(spec/40_domain_point.md rule R110, spec/10_state.md rule R38). -/
def Obligations.SystemAndCompareFrame : Prop :=
  ∀ (s t : State) (i : Instr), exec i s = .next t →
    ((∃ ra rb, i = .peq ra rb) ∨ (∃ ra rb, i = .psxdy ra rb) ∨ (∃ ra, i = .pisid ra) ∨ (∃ ra rb, i = .fcmp ra rb) →
      (∀ r, t.dataReg r = s.dataReg r) ∧ t.status.domv = s.status.domv ∧ t.status.fatal = s.status.fatal ∧
      t.esticky = s.esticky ∧ keepsControl s t ∧
      ∀ off, outside [] off → ¬ (0x1C ≤ off ∧ off < 0x20) → t.readByte off = s.readByte off) ∧
    (i = .nop ∨ i = .dominit →
      (∀ r, t.dataReg r = s.dataReg r) ∧ t.flags = s.flags ∧ keepsControl s t ∧
      (i = .nop → t.status.domv = s.status.domv ∧ t.status.fatal = s.status.fatal ∧ t.esticky = s.esticky) ∧
      ∀ off, outside [] off → t.readByte off = s.readByte off)
end

