-- ==== Sys2Proof/Laws/Arith.lean ====
section
/-! SUPPORT. What the shared arithmetic does, said once: normalisation is the residue, Euclid's loop ends with the greatest
common divisor and a cofactor, what the inverse, the doubler and the adder answer, the multiplier's loop does not depend
on its bound. -/

namespace Sys2Proof.Machine

/-! ## Normalisation -/

theorem natCast_normP {p : Nat} (hp : 0 < p) (v : Int) : (normP p v : Int) = v % p := by
  have hp' : (0 : Int) < p := by exact_mod_cast hp
  have h1 : (v.tmod p + p).tmod p = v % p := by
    have hnn : 0 ≤ v.tmod p + p := by
      have := Int.lt_tmod_of_pos v hp'
      omega
    rw [Int.tmod_eq_emod_of_nonneg hnn, Int.add_emod_right]
    rw [Int.tmod_def, Int.sub_emod, Int.mul_emod_right, sub_zero, Int.emod_emod]
  rw [normP, h1, Int.toNat_of_nonneg (Int.emod_nonneg _ (by omega))]

theorem normP_lt {p : Nat} (hp : 0 < p) (v : Int) : normP p v < p := by
  have h := natCast_normP hp v
  have := Int.emod_lt_of_pos v (by exact_mod_cast hp : (0 : Int) < p)
  omega

theorem normP_natCast {p : Nat} (hp : 0 < p) (n : Nat) : normP p n = n % p := by
  have h := natCast_normP hp n
  omega

theorem normP_eq_zero_iff {p : Nat} (hp : 0 < p) (v : Int) : normP p v = 0 ↔ (p : Int) ∣ v := by
  have h := natCast_normP hp v
  rw [Int.dvd_iff_emod_eq_zero]
  omega

theorem normP_eq_iff {p : Nat} (hp : 0 < p) (v w : Int) : normP p v = normP p w ↔ v % p = w % p := by
  have h := natCast_normP hp v
  have h' := natCast_normP hp w
  omega

theorem normP_of_lt {p n : Nat} (h : n < p) : normP p n = n := by
  rw [normP_natCast (by omega), Nat.mod_eq_of_lt h]

/-- A normalised value, seen modulo `p`. -/
theorem zmod_normP {p : Nat} (hp : 0 < p) (v : Int) : (normP p v : ZMod p) = v := by
  have h : ((normP p v : Int) : ZMod p) = ((v % p : Int) : ZMod p) := by rw [natCast_normP hp]
  simpa using h

/-! ## Euclid's loop -/

/-- The invariant of rule R141: the cofactors and the greatest common divisor. -/
structure EuclidInv (p r : Nat) (e : EuclidSeq) : Prop where
  cof0 : (p : Int) ∣ e.t0 * r - e.r0
  cof1 : (p : Int) ∣ e.t1 * r - e.r1
  gcd  : Nat.gcd e.r0 e.r1 = Nat.gcd p r

theorem EuclidInv.start (p r : Nat) : EuclidInv p r ⟨p, r, 0, 1⟩ :=
  ⟨by simp, by simp, rfl⟩

theorem EuclidSeq.iterate_r1 (e : EuclidSeq) : e.iterate.r1 = e.r0 % e.r1 := by
  have h := Nat.div_add_mod e.r0 e.r1
  simp only [EuclidSeq.iterate]
  rw [Nat.mul_comm]
  omega

theorem EuclidInv.iterate {p r : Nat} {e : EuclidSeq} (h : EuclidInv p r e) : EuclidInv p r e.iterate where
  cof0 := h.cof1
  cof1 := by
    have hr : (e.iterate.r1 : Int) = e.r0 - (e.r0 / e.r1 : Nat) * e.r1 := by
      have hd := Nat.div_add_mod e.r0 e.r1
      rw [EuclidSeq.iterate_r1]
      have : ((e.r1 * (e.r0 / e.r1) + e.r0 % e.r1 : Nat) : Int) = e.r0 := by rw [hd]
      push_cast at this ⊢
      linarith
    have key : e.iterate.t1 * r - e.iterate.r1 =
        (e.t0 * r - e.r0) - (e.r0 / e.r1 : Nat) * (e.t1 * r - e.r1) := by
      rw [hr]
      simp only [EuclidSeq.iterate]
      ring
    rw [key]
    exact dvd_sub h.cof0 (Dvd.dvd.mul_left h.cof1 _)
  gcd := by
    rw [EuclidSeq.iterate_r1, ← h.gcd]
    simp only [EuclidSeq.iterate]
    rw [Nat.gcd_comm e.r0 e.r1, Nat.gcd_rec e.r1 e.r0, Nat.gcd_comm]

theorem euclidLoop_spec {p r : Nat} (fuel : Nat) (e : EuclidSeq) (h : EuclidInv p r e) (hf : e.r1 ≤ fuel) :
    (euclidLoop fuel e).r0 = Nat.gcd p r ∧ (p : Int) ∣ (euclidLoop fuel e).t0 * r - (euclidLoop fuel e).r0 := by
  induction fuel generalizing e with
  | zero =>
    have h0 : e.r1 = 0 := by omega
    have hg := h.gcd
    rw [h0, Nat.gcd_zero_right] at hg
    exact ⟨hg, h.cof0⟩
  | succ n ih =>
    simp only [euclidLoop]
    split
    · rename_i h0
      have hg := h.gcd
      rw [h0, Nat.gcd_zero_right] at hg
      exact ⟨hg, h.cof0⟩
    · rename_i h0
      refine ih e.iterate h.iterate ?_
      rw [EuclidSeq.iterate_r1]
      have := Nat.mod_lt e.r0 (Nat.pos_of_ne_zero h0)
      omega

/-- What rule R141 says of the result: `g = gcd(p, r)` and `t * r ≡ g (mod p)`. -/
theorem euclid_spec (p r : Nat) :
    (euclid p r).r0 = Nat.gcd p r ∧ (p : Int) ∣ (euclid p r).t0 * r - (euclid p r).r0 :=
  euclidLoop_spec r _ (EuclidInv.start p r) le_rfl

/-! ## The inverse -/

/-- Everything `inverse` can answer (rule R140): `NoInverse` when the residue is 0 or shares a factor with the modulus, and
else a residue whose product with the argument is 1 modulo `p`. -/
theorem inverse_spec {p : Nat} (hp : 0 < p) (v : Int) :
    (inverse p v = .error .noInverse ∧ (normP p v = 0 ∨ Nat.gcd p (normP p v) ≠ 1)) ∨
    ∃ x, inverse p v = .ok x ∧ normP p v ≠ 0 ∧ x < p ∧ (p : Int) ∣ v * x - 1 := by
  obtain ⟨hg, ht⟩ := euclid_spec p (normP p v)
  by_cases h0 : normP p v = 0
  · exact .inl ⟨by simp [inverse, h0], .inl h0⟩
  · by_cases h1 : Nat.gcd p (normP p v) = 1
    · refine .inr ⟨normP p (euclid p (normP p v)).t0, by simp [inverse, h0, hg, h1], h0, normP_lt hp _, ?_⟩
      rw [hg, h1] at ht
      have hr := natCast_normP hp v
      have hx := natCast_normP hp (euclid p (normP p v)).t0
      rw [hr] at ht
      rw [hx]
      have e1 := Int.emod_add_mul_ediv v p
      have e2 := Int.emod_add_mul_ediv (euclid p (normP p v)).t0 p
      generalize (euclid p (normP p v)).t0 = t at *
      obtain ⟨c, hc⟩ := ht
      push_cast at hc
      refine ⟨c + v / p * (t % p) - t / p * (v % p), ?_⟩
      calc v * (t % p) - 1 = (v % p + p * (v / p)) * (t % p) - 1 := by rw [e1]
        _ = ((t % p + p * (t / p)) * (v % p) - 1) + p * (v / p * (t % p)) - p * (t / p * (v % p)) := by ring
        _ = (t * (v % p) - 1) + p * (v / p * (t % p)) - p * (t / p * (v % p)) := by rw [e2]
        _ = _ := by rw [hc]; ring
    · exact .inl ⟨by simp [inverse, h0, hg, h1], .inr h1⟩

/-! ## The doubler and the adder -/

/-- What `dbl` answers when it answers a pair (rule R150): the sentinel for the sentinel, or the tangent's third point. -/
theorem dbl_eq_ok {p a : Nat} {P R : Point} (h : dbl p a P = .ok R) :
    (P.isIdentity = true ∧ R = Point.ident) ∨
    (P.isIdentity = false ∧ ∃ inv slope, inverse p (2 * P.y) = .ok inv ∧
      slope = normP p ((3 * P.x * P.x + a) * inv) ∧ R.x = normP p (slope * slope - 2 * P.x) ∧
      R.y = normP p (slope * ((P.x : Int) - R.x) - P.y)) := by
  unfold dbl at h
  split at h
  · cases h
    exact .inl ⟨‹_›, rfl⟩
  · rename_i hi
    split at h
    · cases h
    · cases h
      exact .inr ⟨by simpa using hi, _, _, ‹_›, rfl, rfl, rfl⟩

/-- Which case of rule R152 an addition takes, and its answer there. -/
inductive AddCase (p a : Nat) (P Q : Point) : Prop where
  | same : P = Q → add p a P Q = dbl p a P → AddCase p a P Q
  | opposite : P.x = Q.x → P.y ≠ Q.y → add p a P Q = .ok Point.ident → AddCase p a P Q
  | left : P = Point.ident → Q.x ≠ 0 → add p a P Q = .ok Q → AddCase p a P Q
  | right : Q = Point.ident → P.x ≠ 0 → add p a P Q = .ok P → AddCase p a P Q
  | general : P.x ≠ Q.x → P ≠ Point.ident → Q ≠ Point.ident → add p a P Q = addGeneral p P Q → AddCase p a P Q

theorem Point.equals_iff (P Q : Point) : P.equals Q = true ↔ P = Q := by
  cases P
  cases Q
  simp [Point.equals]

theorem Point.isIdentity_iff (P : Point) : P.isIdentity = true ↔ P = Point.ident := by
  cases P
  simp [Point.isIdentity, Point.ident]

theorem add_cases (p a : Nat) (P Q : Point) : AddCase p a P Q := by
  by_cases h1 : P.equals Q = true
  · exact .same ((Point.equals_iff P Q).mp h1) (by simp only [add, h1, if_true])
  · by_cases h2 : P.hasSameXDifferentY Q = true
    · have h := h2
      simp only [Point.hasSameXDifferentY, Bool.and_eq_true, beq_iff_eq, bne_iff_ne] at h
      exact .opposite h.1 h.2 (by simp only [add, h1, h2, if_true]; rfl)
    · have hx : P.x ≠ Q.x := by
        intro hx
        by_cases hy : P.y = Q.y
        · exact h1 (by simp [Point.equals, hx, hy])
        · exact h2 (by simp [Point.hasSameXDifferentY, hx, hy])
      by_cases h3 : P.isIdentity = true
      · have hP := (Point.isIdentity_iff P).mp h3
        have h0 : P.x = 0 := by rw [hP]; rfl
        exact .left hP (by omega) (by simp only [add, h1, h2, h3, if_true]; rfl)
      · by_cases h4 : Q.isIdentity = true
        · have hQ := (Point.isIdentity_iff Q).mp h4
          have h0 : Q.x = 0 := by rw [hQ]; rfl
          exact .right hQ (by omega) (by simp only [add, h1, h2, h3, h4, if_true]; rfl)
        · exact .general hx (fun h => h3 ((Point.isIdentity_iff P).mpr h))
            (fun h => h4 ((Point.isIdentity_iff Q).mpr h)) (by simp only [add, h1, h2, h3, h4]; rfl)

/-! ## The multiplier's loop -/

theorem MulSeq.pass_mK {p a : Nat} {m n : MulSeq} (h : m.pass p a = .ok n) : n.mK = m.mK / 2 := by
  unfold MulSeq.pass at h
  split at h
  · cases h
  · split at h
    · cases h
    · cases h
      rfl

/-- The bound of the loop does not matter once it reaches `MK`. -/
theorem mulLoop_fuel (p a : Nat) (fuel : Nat) (m : MulSeq) (h : m.mK ≤ fuel) :
    mulLoop p a fuel m = mulLoop p a m.mK m := by
  induction fuel using Nat.strong_induction_on generalizing m with
  | _ fuel ih =>
    rcases Nat.eq_zero_or_pos m.mK with h0 | hpos
    · cases fuel <;> simp [mulLoop, h0]
    · obtain ⟨f, rfl⟩ : ∃ f, fuel = f + 1 := ⟨fuel - 1, by omega⟩
      obtain ⟨k, hk⟩ : ∃ k, m.mK = k + 1 := ⟨m.mK - 1, by omega⟩
      conv_rhs => rw [hk]
      have hne : m.mK ≠ 0 := by omega
      simp only [mulLoop, hne, if_false]
      cases hp : m.pass p a with
      | error e => rfl
      | ok n =>
        have hn := MulSeq.pass_mK hp
        simp only
        rw [ih f (by omega) n (by omega)]
        rcases Nat.lt_or_ge k f with hkf | hkf
        · exact (ih k (by omega) n (by omega)).symm
        · obtain rfl : k = f := by omega
          exact (ih k (by omega) n (by omega)).symm

/-- One turn of the loop of rule R170. -/
theorem mulLoop_unroll (p a : Nat) (m : MulSeq) (h : m.mK ≠ 0) :
    mulLoop p a m.mK m =
      (match m.pass p a with
        | .error e => .error e
        | .ok n => mulLoop p a n.mK n) := by
  obtain ⟨k, hk⟩ : ∃ k, m.mK = k + 1 := ⟨m.mK - 1, by omega⟩
  conv_lhs => rw [hk]
  simp only [mulLoop, h, if_false]
  cases hp : m.pass p a with
  | error e => rfl
  | ok n =>
    have hn := MulSeq.pass_mK hp
    exact mulLoop_fuel p a k n (by omega)

/-! ## Trial division -/

/-- What a run of trial division from `d` has excluded. -/
theorem noDivisorFrom_iff (n fuel d : Nat) (hd : 2 ≤ d) (hf : n < (d + fuel) * (d + fuel)) :
    noDivisorFrom n fuel d = true ↔ ∀ e, d ≤ e → e * e ≤ n → n % e ≠ 0 := by
  induction fuel generalizing d with
  | zero =>
    simp only [noDivisorFrom, true_iff]
    intro e he hen
    have : d * d ≤ e * e := Nat.mul_le_mul he he
    simp at hf
    omega
  | succ f ih =>
    simp only [noDivisorFrom]
    split
    · rename_i h
      simp only [true_iff]
      intro e he hen
      have : d * d ≤ e * e := Nat.mul_le_mul he he
      omega
    · rename_i h
      split
      · rename_i h0
        simp only [Bool.false_eq_true, false_iff, not_forall]
        exact ⟨d, le_rfl, by omega, by simpa using h0⟩
      · rename_i h0
        rw [ih (d + 1) (by omega) (by rw [show d + 1 + f = d + (f + 1) by omega]; exact hf)]
        constructor
        · intro hh e he hen
          rcases Nat.eq_or_lt_of_le he with rfl | hlt
          · exact h0
          · exact hh e hlt hen
        · intro hh e he hen
          exact hh e (by omega) hen

end Sys2Proof.Machine
end

