-- ==== Sys2Proof/Laws/State.lean ====
section
/-! SUPPORT. One lemma per field per update of the state, each true by definition, so that no proof unfolds an update. -/

namespace Sys2Proof.Machine

variable (s : State)


/-! ### setPoint -/

@[simp] theorem State.setPoint_cfg (r : PReg) (v : Point) : (s.setPoint r v).cfg = s.cfg := by cases r <;> rfl
@[simp] theorem State.setPoint_dp (r : PReg) (v : Point) : (s.setPoint r v).dp = s.dp := by cases r <;> rfl
@[simp] theorem State.setPoint_da (r : PReg) (v : Point) : (s.setPoint r v).da = s.da := by cases r <;> rfl
@[simp] theorem State.setPoint_db (r : PReg) (v : Point) : (s.setPoint r v).db = s.db := by cases r <;> rfl
@[simp] theorem State.setPoint_dgx (r : PReg) (v : Point) : (s.setPoint r v).dgx = s.dgx := by cases r <;> rfl
@[simp] theorem State.setPoint_dgy (r : PReg) (v : Point) : (s.setPoint r v).dgy = s.dgy := by cases r <;> rfl
@[simp] theorem State.setPoint_f0 (r : PReg) (v : Point) : (s.setPoint r v).f0 = s.f0 := by cases r <;> rfl
@[simp] theorem State.setPoint_f1 (r : PReg) (v : Point) : (s.setPoint r v).f1 = s.f1 := by cases r <;> rfl
@[simp] theorem State.setPoint_f2 (r : PReg) (v : Point) : (s.setPoint r v).f2 = s.f2 := by cases r <;> rfl
@[simp] theorem State.setPoint_f3 (r : PReg) (v : Point) : (s.setPoint r v).f3 = s.f3 := by cases r <;> rfl
@[simp] theorem State.setPoint_k (r : PReg) (v : Point) : (s.setPoint r v).k = s.k := by cases r <;> rfl
@[simp] theorem State.setPoint_status (r : PReg) (v : Point) : (s.setPoint r v).status = s.status := by cases r <;> rfl
@[simp] theorem State.setPoint_errcode (r : PReg) (v : Point) : (s.setPoint r v).errcode = s.errcode := by cases r <;> rfl
@[simp] theorem State.setPoint_esticky (r : PReg) (v : Point) : (s.setPoint r v).esticky = s.esticky := by cases r <;> rfl
@[simp] theorem State.setPoint_flags (r : PReg) (v : Point) : (s.setPoint r v).flags = s.flags := by cases r <;> rfl
@[simp] theorem State.setPoint_cmd (r : PReg) (v : Point) : (s.setPoint r v).cmd = s.cmd := by cases r <;> rfl
@[simp] theorem State.setPoint_turns (r : PReg) (v : Point) : (s.setPoint r v).turns = s.turns := by cases r <;> rfl
@[simp] theorem State.setPoint_rdata (r : PReg) (v : Point) : (s.setPoint r v).rdata = s.rdata := by cases r <;> rfl

/-! ### setField -/

@[simp] theorem State.setField_cfg (r : FReg) (v : Nat) : (s.setField r v).cfg = s.cfg := by cases r <;> rfl
@[simp] theorem State.setField_dp (r : FReg) (v : Nat) : (s.setField r v).dp = s.dp := by cases r <;> rfl
@[simp] theorem State.setField_da (r : FReg) (v : Nat) : (s.setField r v).da = s.da := by cases r <;> rfl
@[simp] theorem State.setField_db (r : FReg) (v : Nat) : (s.setField r v).db = s.db := by cases r <;> rfl
@[simp] theorem State.setField_dgx (r : FReg) (v : Nat) : (s.setField r v).dgx = s.dgx := by cases r <;> rfl
@[simp] theorem State.setField_dgy (r : FReg) (v : Nat) : (s.setField r v).dgy = s.dgy := by cases r <;> rfl
@[simp] theorem State.setField_p0 (r : FReg) (v : Nat) : (s.setField r v).p0 = s.p0 := by cases r <;> rfl
@[simp] theorem State.setField_p1 (r : FReg) (v : Nat) : (s.setField r v).p1 = s.p1 := by cases r <;> rfl
@[simp] theorem State.setField_p2 (r : FReg) (v : Nat) : (s.setField r v).p2 = s.p2 := by cases r <;> rfl
@[simp] theorem State.setField_p3 (r : FReg) (v : Nat) : (s.setField r v).p3 = s.p3 := by cases r <;> rfl
@[simp] theorem State.setField_k (r : FReg) (v : Nat) : (s.setField r v).k = s.k := by cases r <;> rfl
@[simp] theorem State.setField_status (r : FReg) (v : Nat) : (s.setField r v).status = s.status := by cases r <;> rfl
@[simp] theorem State.setField_errcode (r : FReg) (v : Nat) : (s.setField r v).errcode = s.errcode := by cases r <;> rfl
@[simp] theorem State.setField_esticky (r : FReg) (v : Nat) : (s.setField r v).esticky = s.esticky := by cases r <;> rfl
@[simp] theorem State.setField_flags (r : FReg) (v : Nat) : (s.setField r v).flags = s.flags := by cases r <;> rfl
@[simp] theorem State.setField_cmd (r : FReg) (v : Nat) : (s.setField r v).cmd = s.cmd := by cases r <;> rfl
@[simp] theorem State.setField_turns (r : FReg) (v : Nat) : (s.setField r v).turns = s.turns := by cases r <;> rfl
@[simp] theorem State.setField_rdata (r : FReg) (v : Nat) : (s.setField r v).rdata = s.rdata := by cases r <;> rfl

/-! ### setEq -/

@[simp] theorem State.setEq_cfg (b : Bool) : (s.setEq b).cfg = s.cfg := rfl
@[simp] theorem State.setEq_dp (b : Bool) : (s.setEq b).dp = s.dp := rfl
@[simp] theorem State.setEq_da (b : Bool) : (s.setEq b).da = s.da := rfl
@[simp] theorem State.setEq_db (b : Bool) : (s.setEq b).db = s.db := rfl
@[simp] theorem State.setEq_dgx (b : Bool) : (s.setEq b).dgx = s.dgx := rfl
@[simp] theorem State.setEq_dgy (b : Bool) : (s.setEq b).dgy = s.dgy := rfl
@[simp] theorem State.setEq_p0 (b : Bool) : (s.setEq b).p0 = s.p0 := rfl
@[simp] theorem State.setEq_p1 (b : Bool) : (s.setEq b).p1 = s.p1 := rfl
@[simp] theorem State.setEq_p2 (b : Bool) : (s.setEq b).p2 = s.p2 := rfl
@[simp] theorem State.setEq_p3 (b : Bool) : (s.setEq b).p3 = s.p3 := rfl
@[simp] theorem State.setEq_f0 (b : Bool) : (s.setEq b).f0 = s.f0 := rfl
@[simp] theorem State.setEq_f1 (b : Bool) : (s.setEq b).f1 = s.f1 := rfl
@[simp] theorem State.setEq_f2 (b : Bool) : (s.setEq b).f2 = s.f2 := rfl
@[simp] theorem State.setEq_f3 (b : Bool) : (s.setEq b).f3 = s.f3 := rfl
@[simp] theorem State.setEq_k (b : Bool) : (s.setEq b).k = s.k := rfl
@[simp] theorem State.setEq_status (b : Bool) : (s.setEq b).status = s.status := rfl
@[simp] theorem State.setEq_errcode (b : Bool) : (s.setEq b).errcode = s.errcode := rfl
@[simp] theorem State.setEq_esticky (b : Bool) : (s.setEq b).esticky = s.esticky := rfl
@[simp] theorem State.setEq_flags (b : Bool) : (s.setEq b).flags = { s.flags with eq := b } := rfl
@[simp] theorem State.setEq_cmd (b : Bool) : (s.setEq b).cmd = s.cmd := rfl
@[simp] theorem State.setEq_turns (b : Bool) : (s.setEq b).turns = s.turns := rfl
@[simp] theorem State.setEq_rdata (b : Bool) : (s.setEq b).rdata = s.rdata := rfl

/-! ### setSxdy -/

@[simp] theorem State.setSxdy_cfg (b : Bool) : (s.setSxdy b).cfg = s.cfg := rfl
@[simp] theorem State.setSxdy_dp (b : Bool) : (s.setSxdy b).dp = s.dp := rfl
@[simp] theorem State.setSxdy_da (b : Bool) : (s.setSxdy b).da = s.da := rfl
@[simp] theorem State.setSxdy_db (b : Bool) : (s.setSxdy b).db = s.db := rfl
@[simp] theorem State.setSxdy_dgx (b : Bool) : (s.setSxdy b).dgx = s.dgx := rfl
@[simp] theorem State.setSxdy_dgy (b : Bool) : (s.setSxdy b).dgy = s.dgy := rfl
@[simp] theorem State.setSxdy_p0 (b : Bool) : (s.setSxdy b).p0 = s.p0 := rfl
@[simp] theorem State.setSxdy_p1 (b : Bool) : (s.setSxdy b).p1 = s.p1 := rfl
@[simp] theorem State.setSxdy_p2 (b : Bool) : (s.setSxdy b).p2 = s.p2 := rfl
@[simp] theorem State.setSxdy_p3 (b : Bool) : (s.setSxdy b).p3 = s.p3 := rfl
@[simp] theorem State.setSxdy_f0 (b : Bool) : (s.setSxdy b).f0 = s.f0 := rfl
@[simp] theorem State.setSxdy_f1 (b : Bool) : (s.setSxdy b).f1 = s.f1 := rfl
@[simp] theorem State.setSxdy_f2 (b : Bool) : (s.setSxdy b).f2 = s.f2 := rfl
@[simp] theorem State.setSxdy_f3 (b : Bool) : (s.setSxdy b).f3 = s.f3 := rfl
@[simp] theorem State.setSxdy_k (b : Bool) : (s.setSxdy b).k = s.k := rfl
@[simp] theorem State.setSxdy_status (b : Bool) : (s.setSxdy b).status = s.status := rfl
@[simp] theorem State.setSxdy_errcode (b : Bool) : (s.setSxdy b).errcode = s.errcode := rfl
@[simp] theorem State.setSxdy_esticky (b : Bool) : (s.setSxdy b).esticky = s.esticky := rfl
@[simp] theorem State.setSxdy_flags (b : Bool) : (s.setSxdy b).flags = { s.flags with sxdy := b } := rfl
@[simp] theorem State.setSxdy_cmd (b : Bool) : (s.setSxdy b).cmd = s.cmd := rfl
@[simp] theorem State.setSxdy_turns (b : Bool) : (s.setSxdy b).turns = s.turns := rfl
@[simp] theorem State.setSxdy_rdata (b : Bool) : (s.setSxdy b).rdata = s.rdata := rfl

/-! ### setId -/

@[simp] theorem State.setId_cfg (b : Bool) : (s.setId b).cfg = s.cfg := rfl
@[simp] theorem State.setId_dp (b : Bool) : (s.setId b).dp = s.dp := rfl
@[simp] theorem State.setId_da (b : Bool) : (s.setId b).da = s.da := rfl
@[simp] theorem State.setId_db (b : Bool) : (s.setId b).db = s.db := rfl
@[simp] theorem State.setId_dgx (b : Bool) : (s.setId b).dgx = s.dgx := rfl
@[simp] theorem State.setId_dgy (b : Bool) : (s.setId b).dgy = s.dgy := rfl
@[simp] theorem State.setId_p0 (b : Bool) : (s.setId b).p0 = s.p0 := rfl
@[simp] theorem State.setId_p1 (b : Bool) : (s.setId b).p1 = s.p1 := rfl
@[simp] theorem State.setId_p2 (b : Bool) : (s.setId b).p2 = s.p2 := rfl
@[simp] theorem State.setId_p3 (b : Bool) : (s.setId b).p3 = s.p3 := rfl
@[simp] theorem State.setId_f0 (b : Bool) : (s.setId b).f0 = s.f0 := rfl
@[simp] theorem State.setId_f1 (b : Bool) : (s.setId b).f1 = s.f1 := rfl
@[simp] theorem State.setId_f2 (b : Bool) : (s.setId b).f2 = s.f2 := rfl
@[simp] theorem State.setId_f3 (b : Bool) : (s.setId b).f3 = s.f3 := rfl
@[simp] theorem State.setId_k (b : Bool) : (s.setId b).k = s.k := rfl
@[simp] theorem State.setId_status (b : Bool) : (s.setId b).status = s.status := rfl
@[simp] theorem State.setId_errcode (b : Bool) : (s.setId b).errcode = s.errcode := rfl
@[simp] theorem State.setId_esticky (b : Bool) : (s.setId b).esticky = s.esticky := rfl
@[simp] theorem State.setId_flags (b : Bool) : (s.setId b).flags = { s.flags with id := b } := rfl
@[simp] theorem State.setId_cmd (b : Bool) : (s.setId b).cmd = s.cmd := rfl
@[simp] theorem State.setId_turns (b : Bool) : (s.setId b).turns = s.turns := rfl
@[simp] theorem State.setId_rdata (b : Bool) : (s.setId b).rdata = s.rdata := rfl

/-! ### setOrder -/

@[simp] theorem State.setOrder_cfg (a b : Bool) : (s.setOrder a b).cfg = s.cfg := rfl
@[simp] theorem State.setOrder_dp (a b : Bool) : (s.setOrder a b).dp = s.dp := rfl
@[simp] theorem State.setOrder_da (a b : Bool) : (s.setOrder a b).da = s.da := rfl
@[simp] theorem State.setOrder_db (a b : Bool) : (s.setOrder a b).db = s.db := rfl
@[simp] theorem State.setOrder_dgx (a b : Bool) : (s.setOrder a b).dgx = s.dgx := rfl
@[simp] theorem State.setOrder_dgy (a b : Bool) : (s.setOrder a b).dgy = s.dgy := rfl
@[simp] theorem State.setOrder_p0 (a b : Bool) : (s.setOrder a b).p0 = s.p0 := rfl
@[simp] theorem State.setOrder_p1 (a b : Bool) : (s.setOrder a b).p1 = s.p1 := rfl
@[simp] theorem State.setOrder_p2 (a b : Bool) : (s.setOrder a b).p2 = s.p2 := rfl
@[simp] theorem State.setOrder_p3 (a b : Bool) : (s.setOrder a b).p3 = s.p3 := rfl
@[simp] theorem State.setOrder_f0 (a b : Bool) : (s.setOrder a b).f0 = s.f0 := rfl
@[simp] theorem State.setOrder_f1 (a b : Bool) : (s.setOrder a b).f1 = s.f1 := rfl
@[simp] theorem State.setOrder_f2 (a b : Bool) : (s.setOrder a b).f2 = s.f2 := rfl
@[simp] theorem State.setOrder_f3 (a b : Bool) : (s.setOrder a b).f3 = s.f3 := rfl
@[simp] theorem State.setOrder_k (a b : Bool) : (s.setOrder a b).k = s.k := rfl
@[simp] theorem State.setOrder_status (a b : Bool) : (s.setOrder a b).status = s.status := rfl
@[simp] theorem State.setOrder_errcode (a b : Bool) : (s.setOrder a b).errcode = s.errcode := rfl
@[simp] theorem State.setOrder_esticky (a b : Bool) : (s.setOrder a b).esticky = s.esticky := rfl
@[simp] theorem State.setOrder_flags (a b : Bool) : (s.setOrder a b).flags = { s.flags with flt := a, feq := b } := rfl
@[simp] theorem State.setOrder_cmd (a b : Bool) : (s.setOrder a b).cmd = s.cmd := rfl
@[simp] theorem State.setOrder_turns (a b : Bool) : (s.setOrder a b).turns = s.turns := rfl
@[simp] theorem State.setOrder_rdata (a b : Bool) : (s.setOrder a b).rdata = s.rdata := rfl

/-! ### issue -/

@[simp] theorem State.issue_cfg (v : Word) : (s.issue v).cfg = s.cfg := rfl
@[simp] theorem State.issue_dp (v : Word) : (s.issue v).dp = s.dp := rfl
@[simp] theorem State.issue_da (v : Word) : (s.issue v).da = s.da := rfl
@[simp] theorem State.issue_db (v : Word) : (s.issue v).db = s.db := rfl
@[simp] theorem State.issue_dgx (v : Word) : (s.issue v).dgx = s.dgx := rfl
@[simp] theorem State.issue_dgy (v : Word) : (s.issue v).dgy = s.dgy := rfl
@[simp] theorem State.issue_p0 (v : Word) : (s.issue v).p0 = s.p0 := rfl
@[simp] theorem State.issue_p1 (v : Word) : (s.issue v).p1 = s.p1 := rfl
@[simp] theorem State.issue_p2 (v : Word) : (s.issue v).p2 = s.p2 := rfl
@[simp] theorem State.issue_p3 (v : Word) : (s.issue v).p3 = s.p3 := rfl
@[simp] theorem State.issue_f0 (v : Word) : (s.issue v).f0 = s.f0 := rfl
@[simp] theorem State.issue_f1 (v : Word) : (s.issue v).f1 = s.f1 := rfl
@[simp] theorem State.issue_f2 (v : Word) : (s.issue v).f2 = s.f2 := rfl
@[simp] theorem State.issue_f3 (v : Word) : (s.issue v).f3 = s.f3 := rfl
@[simp] theorem State.issue_k (v : Word) : (s.issue v).k = s.k := rfl
@[simp] theorem State.issue_status (v : Word) : (s.issue v).status = { s.status with busy := true, done := false, err := false } := rfl
@[simp] theorem State.issue_errcode (v : Word) : (s.issue v).errcode = none := rfl
@[simp] theorem State.issue_esticky (v : Word) : (s.issue v).esticky = s.esticky := rfl
@[simp] theorem State.issue_flags (v : Word) : (s.issue v).flags = s.flags := rfl
@[simp] theorem State.issue_cmd (v : Word) : (s.issue v).cmd = v := rfl
@[simp] theorem State.issue_turns (v : Word) : (s.issue v).turns = s.turns := rfl
@[simp] theorem State.issue_rdata (v : Word) : (s.issue v).rdata = s.rdata := rfl

/-! ### succeed -/

@[simp] theorem State.succeed_cfg : (s.succeed).cfg = s.cfg := rfl
@[simp] theorem State.succeed_dp : (s.succeed).dp = s.dp := rfl
@[simp] theorem State.succeed_da : (s.succeed).da = s.da := rfl
@[simp] theorem State.succeed_db : (s.succeed).db = s.db := rfl
@[simp] theorem State.succeed_dgx : (s.succeed).dgx = s.dgx := rfl
@[simp] theorem State.succeed_dgy : (s.succeed).dgy = s.dgy := rfl
@[simp] theorem State.succeed_p0 : (s.succeed).p0 = s.p0 := rfl
@[simp] theorem State.succeed_p1 : (s.succeed).p1 = s.p1 := rfl
@[simp] theorem State.succeed_p2 : (s.succeed).p2 = s.p2 := rfl
@[simp] theorem State.succeed_p3 : (s.succeed).p3 = s.p3 := rfl
@[simp] theorem State.succeed_f0 : (s.succeed).f0 = s.f0 := rfl
@[simp] theorem State.succeed_f1 : (s.succeed).f1 = s.f1 := rfl
@[simp] theorem State.succeed_f2 : (s.succeed).f2 = s.f2 := rfl
@[simp] theorem State.succeed_f3 : (s.succeed).f3 = s.f3 := rfl
@[simp] theorem State.succeed_k : (s.succeed).k = s.k := rfl
@[simp] theorem State.succeed_status : (s.succeed).status = { s.status with busy := false, done := true, err := false } := rfl
@[simp] theorem State.succeed_errcode : (s.succeed).errcode = none := rfl
@[simp] theorem State.succeed_esticky : (s.succeed).esticky = s.esticky := rfl
@[simp] theorem State.succeed_flags : (s.succeed).flags = s.flags := rfl
@[simp] theorem State.succeed_cmd : (s.succeed).cmd = s.cmd := rfl
@[simp] theorem State.succeed_turns : (s.succeed).turns = s.turns := rfl
@[simp] theorem State.succeed_rdata : (s.succeed).rdata = s.rdata := rfl

/-! ### takeError -/

@[simp] theorem State.takeError_cfg (e : ErrorCode) : (s.takeError e).cfg = s.cfg := rfl
@[simp] theorem State.takeError_dp (e : ErrorCode) : (s.takeError e).dp = s.dp := rfl
@[simp] theorem State.takeError_da (e : ErrorCode) : (s.takeError e).da = s.da := rfl
@[simp] theorem State.takeError_db (e : ErrorCode) : (s.takeError e).db = s.db := rfl
@[simp] theorem State.takeError_dgx (e : ErrorCode) : (s.takeError e).dgx = s.dgx := rfl
@[simp] theorem State.takeError_dgy (e : ErrorCode) : (s.takeError e).dgy = s.dgy := rfl
@[simp] theorem State.takeError_p0 (e : ErrorCode) : (s.takeError e).p0 = s.p0 := rfl
@[simp] theorem State.takeError_p1 (e : ErrorCode) : (s.takeError e).p1 = s.p1 := rfl
@[simp] theorem State.takeError_p2 (e : ErrorCode) : (s.takeError e).p2 = s.p2 := rfl
@[simp] theorem State.takeError_p3 (e : ErrorCode) : (s.takeError e).p3 = s.p3 := rfl
@[simp] theorem State.takeError_f0 (e : ErrorCode) : (s.takeError e).f0 = s.f0 := rfl
@[simp] theorem State.takeError_f1 (e : ErrorCode) : (s.takeError e).f1 = s.f1 := rfl
@[simp] theorem State.takeError_f2 (e : ErrorCode) : (s.takeError e).f2 = s.f2 := rfl
@[simp] theorem State.takeError_f3 (e : ErrorCode) : (s.takeError e).f3 = s.f3 := rfl
@[simp] theorem State.takeError_k (e : ErrorCode) : (s.takeError e).k = s.k := rfl
@[simp] theorem State.takeError_status (e : ErrorCode) : (s.takeError e).status = 
    { s.status with
      busy := false
      done := true
      err := true
      fatal := s.status.fatal || e == .invalidCurveParameter } := rfl
@[simp] theorem State.takeError_errcode (e : ErrorCode) : (s.takeError e).errcode = some e := rfl
@[simp] theorem State.takeError_esticky (e : ErrorCode) : (s.takeError e).esticky = s.esticky.record e := rfl
@[simp] theorem State.takeError_flags (e : ErrorCode) : (s.takeError e).flags = s.flags := rfl
@[simp] theorem State.takeError_cmd (e : ErrorCode) : (s.takeError e).cmd = s.cmd := rfl
@[simp] theorem State.takeError_turns (e : ErrorCode) : (s.takeError e).turns = s.turns := rfl
@[simp] theorem State.takeError_rdata (e : ErrorCode) : (s.takeError e).rdata = s.rdata := rfl

/-! ### clearStatus -/

@[simp] theorem State.clearStatus_cfg (v : Word) : (s.clearStatus v).cfg = s.cfg := rfl
@[simp] theorem State.clearStatus_dp (v : Word) : (s.clearStatus v).dp = s.dp := rfl
@[simp] theorem State.clearStatus_da (v : Word) : (s.clearStatus v).da = s.da := rfl
@[simp] theorem State.clearStatus_db (v : Word) : (s.clearStatus v).db = s.db := rfl
@[simp] theorem State.clearStatus_dgx (v : Word) : (s.clearStatus v).dgx = s.dgx := rfl
@[simp] theorem State.clearStatus_dgy (v : Word) : (s.clearStatus v).dgy = s.dgy := rfl
@[simp] theorem State.clearStatus_p0 (v : Word) : (s.clearStatus v).p0 = s.p0 := rfl
@[simp] theorem State.clearStatus_p1 (v : Word) : (s.clearStatus v).p1 = s.p1 := rfl
@[simp] theorem State.clearStatus_p2 (v : Word) : (s.clearStatus v).p2 = s.p2 := rfl
@[simp] theorem State.clearStatus_p3 (v : Word) : (s.clearStatus v).p3 = s.p3 := rfl
@[simp] theorem State.clearStatus_f0 (v : Word) : (s.clearStatus v).f0 = s.f0 := rfl
@[simp] theorem State.clearStatus_f1 (v : Word) : (s.clearStatus v).f1 = s.f1 := rfl
@[simp] theorem State.clearStatus_f2 (v : Word) : (s.clearStatus v).f2 = s.f2 := rfl
@[simp] theorem State.clearStatus_f3 (v : Word) : (s.clearStatus v).f3 = s.f3 := rfl
@[simp] theorem State.clearStatus_k (v : Word) : (s.clearStatus v).k = s.k := rfl
@[simp] theorem State.clearStatus_status (v : Word) : (s.clearStatus v).status = 
    { s.status with
      done := s.status.done && !v.getLsbD 1
      err := s.status.err && !v.getLsbD 2
      wign := s.status.wign && !v.getLsbD 5 } := rfl
@[simp] theorem State.clearStatus_errcode (v : Word) : (s.clearStatus v).errcode = s.errcode := rfl
@[simp] theorem State.clearStatus_esticky (v : Word) : (s.clearStatus v).esticky = s.esticky := rfl
@[simp] theorem State.clearStatus_flags (v : Word) : (s.clearStatus v).flags = s.flags := rfl
@[simp] theorem State.clearStatus_cmd (v : Word) : (s.clearStatus v).cmd = s.cmd := rfl
@[simp] theorem State.clearStatus_turns (v : Word) : (s.clearStatus v).turns = s.turns := rfl
@[simp] theorem State.clearStatus_rdata (v : Word) : (s.clearStatus v).rdata = s.rdata := rfl

/-! ### markIgnored -/

@[simp] theorem State.markIgnored_cfg : (s.markIgnored).cfg = s.cfg := rfl
@[simp] theorem State.markIgnored_dp : (s.markIgnored).dp = s.dp := rfl
@[simp] theorem State.markIgnored_da : (s.markIgnored).da = s.da := rfl
@[simp] theorem State.markIgnored_db : (s.markIgnored).db = s.db := rfl
@[simp] theorem State.markIgnored_dgx : (s.markIgnored).dgx = s.dgx := rfl
@[simp] theorem State.markIgnored_dgy : (s.markIgnored).dgy = s.dgy := rfl
@[simp] theorem State.markIgnored_p0 : (s.markIgnored).p0 = s.p0 := rfl
@[simp] theorem State.markIgnored_p1 : (s.markIgnored).p1 = s.p1 := rfl
@[simp] theorem State.markIgnored_p2 : (s.markIgnored).p2 = s.p2 := rfl
@[simp] theorem State.markIgnored_p3 : (s.markIgnored).p3 = s.p3 := rfl
@[simp] theorem State.markIgnored_f0 : (s.markIgnored).f0 = s.f0 := rfl
@[simp] theorem State.markIgnored_f1 : (s.markIgnored).f1 = s.f1 := rfl
@[simp] theorem State.markIgnored_f2 : (s.markIgnored).f2 = s.f2 := rfl
@[simp] theorem State.markIgnored_f3 : (s.markIgnored).f3 = s.f3 := rfl
@[simp] theorem State.markIgnored_k : (s.markIgnored).k = s.k := rfl
@[simp] theorem State.markIgnored_status : (s.markIgnored).status = { s.status with wign := true } := rfl
@[simp] theorem State.markIgnored_errcode : (s.markIgnored).errcode = s.errcode := rfl
@[simp] theorem State.markIgnored_esticky : (s.markIgnored).esticky = s.esticky := rfl
@[simp] theorem State.markIgnored_flags : (s.markIgnored).flags = s.flags := rfl
@[simp] theorem State.markIgnored_cmd : (s.markIgnored).cmd = s.cmd := rfl
@[simp] theorem State.markIgnored_turns : (s.markIgnored).turns = s.turns := rfl
@[simp] theorem State.markIgnored_rdata : (s.markIgnored).rdata = s.rdata := rfl

/-! ### resetBlock -/

@[simp] theorem State.resetBlock_cfg : (s.resetBlock).cfg = s.cfg := rfl
@[simp] theorem State.resetBlock_dp : (s.resetBlock).dp = 0 := rfl
@[simp] theorem State.resetBlock_da : (s.resetBlock).da = 0 := rfl
@[simp] theorem State.resetBlock_db : (s.resetBlock).db = 0 := rfl
@[simp] theorem State.resetBlock_dgx : (s.resetBlock).dgx = 0 := rfl
@[simp] theorem State.resetBlock_dgy : (s.resetBlock).dgy = 0 := rfl
@[simp] theorem State.resetBlock_p0 : (s.resetBlock).p0 = Point.ident := rfl
@[simp] theorem State.resetBlock_p1 : (s.resetBlock).p1 = Point.ident := rfl
@[simp] theorem State.resetBlock_p2 : (s.resetBlock).p2 = Point.ident := rfl
@[simp] theorem State.resetBlock_p3 : (s.resetBlock).p3 = Point.ident := rfl
@[simp] theorem State.resetBlock_f0 : (s.resetBlock).f0 = 0 := rfl
@[simp] theorem State.resetBlock_f1 : (s.resetBlock).f1 = 0 := rfl
@[simp] theorem State.resetBlock_f2 : (s.resetBlock).f2 = 0 := rfl
@[simp] theorem State.resetBlock_f3 : (s.resetBlock).f3 = 0 := rfl
@[simp] theorem State.resetBlock_k : (s.resetBlock).k = 0 := rfl
@[simp] theorem State.resetBlock_status : (s.resetBlock).status = ⟨false, false, false, false, false, false⟩ := rfl
@[simp] theorem State.resetBlock_errcode : (s.resetBlock).errcode = none := rfl
@[simp] theorem State.resetBlock_esticky : (s.resetBlock).esticky = ⟨false, false, false, false, false⟩ := rfl
@[simp] theorem State.resetBlock_flags : (s.resetBlock).flags = ⟨false, false, false, false, false⟩ := rfl
@[simp] theorem State.resetBlock_cmd : (s.resetBlock).cmd = 0#32 := rfl
@[simp] theorem State.resetBlock_turns : (s.resetBlock).turns = s.turns := rfl
@[simp] theorem State.resetBlock_rdata : (s.resetBlock).rdata = s.rdata := rfl

/-! ### Registers named by a selector, through the updates that leave them alone -/

@[simp] theorem State.setField_point (r : FReg) (v : Nat) (q : PReg) : (s.setField r v).point q = s.point q := by cases q <;> simp [State.point]
@[simp] theorem State.setEq_point (b : Bool) (q : PReg) : (s.setEq b).point q = s.point q := by cases q <;> rfl
@[simp] theorem State.setSxdy_point (b : Bool) (q : PReg) : (s.setSxdy b).point q = s.point q := by cases q <;> rfl
@[simp] theorem State.setId_point (b : Bool) (q : PReg) : (s.setId b).point q = s.point q := by cases q <;> rfl
@[simp] theorem State.setOrder_point (a b : Bool) (q : PReg) : (s.setOrder a b).point q = s.point q := by cases q <;> rfl
@[simp] theorem State.issue_point (v : Word) (q : PReg) : (s.issue v).point q = s.point q := by cases q <;> rfl
@[simp] theorem State.succeed_point (q : PReg) : (s.succeed).point q = s.point q := by cases q <;> rfl
@[simp] theorem State.takeError_point (e : ErrorCode) (q : PReg) : (s.takeError e).point q = s.point q := by cases q <;> rfl
@[simp] theorem State.clearStatus_point (v : Word) (q : PReg) : (s.clearStatus v).point q = s.point q := by cases q <;> rfl
@[simp] theorem State.markIgnored_point (q : PReg) : (s.markIgnored).point q = s.point q := by cases q <;> rfl
@[simp] theorem State.setPoint_field (r : PReg) (v : Point) (q : FReg) : (s.setPoint r v).field q = s.field q := by cases q <;> simp [State.field]
@[simp] theorem State.setEq_field (b : Bool) (q : FReg) : (s.setEq b).field q = s.field q := by cases q <;> rfl
@[simp] theorem State.setSxdy_field (b : Bool) (q : FReg) : (s.setSxdy b).field q = s.field q := by cases q <;> rfl
@[simp] theorem State.setId_field (b : Bool) (q : FReg) : (s.setId b).field q = s.field q := by cases q <;> rfl
@[simp] theorem State.setOrder_field (a b : Bool) (q : FReg) : (s.setOrder a b).field q = s.field q := by cases q <;> rfl
@[simp] theorem State.issue_field (v : Word) (q : FReg) : (s.issue v).field q = s.field q := by cases q <;> rfl
@[simp] theorem State.succeed_field (q : FReg) : (s.succeed).field q = s.field q := by cases q <;> rfl
@[simp] theorem State.takeError_field (e : ErrorCode) (q : FReg) : (s.takeError e).field q = s.field q := by cases q <;> rfl
@[simp] theorem State.clearStatus_field (v : Word) (q : FReg) : (s.clearStatus v).field q = s.field q := by cases q <;> rfl
@[simp] theorem State.markIgnored_field (q : FReg) : (s.markIgnored).field q = s.field q := by cases q <;> rfl
@[simp] theorem State.setEq_dataReg (b : Bool) (q : DataReg) : (s.setEq b).dataReg q = s.dataReg q := by
  cases q <;> simp [State.dataReg]
@[simp] theorem State.setSxdy_dataReg (b : Bool) (q : DataReg) : (s.setSxdy b).dataReg q = s.dataReg q := by
  cases q <;> simp [State.dataReg]
@[simp] theorem State.setId_dataReg (b : Bool) (q : DataReg) : (s.setId b).dataReg q = s.dataReg q := by
  cases q <;> simp [State.dataReg]
@[simp] theorem State.setOrder_dataReg (a b : Bool) (q : DataReg) : (s.setOrder a b).dataReg q = s.dataReg q := by
  cases q <;> simp [State.dataReg]
@[simp] theorem State.issue_dataReg (v : Word) (q : DataReg) : (s.issue v).dataReg q = s.dataReg q := by
  cases q <;> simp [State.dataReg]
@[simp] theorem State.succeed_dataReg (q : DataReg) : (s.succeed).dataReg q = s.dataReg q := by
  cases q <;> simp [State.dataReg]
@[simp] theorem State.takeError_dataReg (e : ErrorCode) (q : DataReg) : (s.takeError e).dataReg q = s.dataReg q := by
  cases q <;> simp [State.dataReg]
@[simp] theorem State.clearStatus_dataReg (v : Word) (q : DataReg) : (s.clearStatus v).dataReg q = s.dataReg q := by
  cases q <;> simp [State.dataReg]
@[simp] theorem State.markIgnored_dataReg (q : DataReg) : (s.markIgnored).dataReg q = s.dataReg q := by
  cases q <;> simp [State.dataReg]

end Sys2Proof.Machine
end

