-- ==== Sys2Proof/Laws/Operands.lean ====
section
/-! SUPPORT. What the register operations and the map of the window do, said once: reading after writing, the words of a
wide register, and where each register lies. -/

namespace Sys2Proof.Machine

/-! ## Registers named by a selector -/

theorem State.point_setPoint (s : State) (r q : PReg) (v : Point) :
    (s.setPoint r v).point q = if q = r then v else s.point q := by
  cases r <;> cases q <;> rfl

theorem State.field_setField (s : State) (r q : FReg) (v : Nat) :
    (s.setField r v).field q = if q = r then v else s.field q := by
  cases r <;> cases q <;> rfl

@[simp] theorem State.point_setPoint_same (s : State) (r : PReg) (v : Point) : (s.setPoint r v).point r = v := by
  simp [State.point_setPoint]

@[simp] theorem State.field_setField_same (s : State) (r : FReg) (v : Nat) : (s.setField r v).field r = v := by
  simp [State.field_setField]

/-- A wide register after a write of a wide register. -/
theorem State.dataReg_setDataReg (s : State) (r q : DataReg) (v : Nat) :
    (s.setDataReg r v).dataReg q = if q = r then v else s.dataReg q := by
  cases r <;> cases q <;> simp [State.setDataReg, State.dataReg, State.point_setPoint, State.field_setField] <;>
    first
      | rfl
      | (split <;> simp_all)

@[simp] theorem State.dataReg_setDataReg_same (s : State) (r : DataReg) (v : Nat) :
    (s.setDataReg r v).dataReg r = v := by
  simp [State.dataReg_setDataReg]

/-- A wide register after a write of a point register: only that point's two coordinates change. -/
theorem State.dataReg_setPoint (s : State) (r : PReg) (v : Point) (q : DataReg) :
    (s.setPoint r v).dataReg q = if q = .px r then v.x else if q = .py r then v.y else s.dataReg q := by
  cases q <;> simp [State.dataReg, State.point_setPoint] <;> split <;> simp_all

/-- A wide register after a write of a field register. -/
theorem State.dataReg_setField (s : State) (r : FReg) (v : Nat) (q : DataReg) :
    (s.setField r v).dataReg q = if q = .f r then v else s.dataReg q := by
  cases q <;> simp [State.dataReg, State.field_setField]

theorem State.setDataReg_frame (s : State) (r : DataReg) (v : Nat) :
    (s.setDataReg r v).cfg = s.cfg ∧ (s.setDataReg r v).status = s.status ∧
    (s.setDataReg r v).errcode = s.errcode ∧ (s.setDataReg r v).esticky = s.esticky ∧
    (s.setDataReg r v).flags = s.flags ∧ (s.setDataReg r v).cmd = s.cmd ∧
    (s.setDataReg r v).turns = s.turns ∧ (s.setDataReg r v).rdata = s.rdata := by
  cases r <;> simp [State.setDataReg]

/-- Two states with the same registers are the same: the wide registers are the only places data is held. -/
theorem State.ext_dataReg {s t : State} (hc : s.cfg = t.cfg) (hd : ∀ r, s.dataReg r = t.dataReg r)
    (hs : s.status = t.status) (he : s.errcode = t.errcode) (hk : s.esticky = t.esticky) (hf : s.flags = t.flags)
    (hm : s.cmd = t.cmd) (ht : s.turns = t.turns) (hr : s.rdata = t.rdata) : s = t := by
  cases s
  cases t
  simp only [State.mk.injEq] at *
  refine ⟨hc, hd .dp, hd .da, hd .db, hd .dgx, hd .dgy, ?_, ?_, ?_, ?_, hd (.f .f0), hd (.f .f1), hd (.f .f2),
    hd (.f .f3), hd .k, hs, he, hk, hf, hm, ht, hr⟩
  · exact Point.mk.injEq .. |>.mpr ⟨hd (.px .p0), hd (.py .p0)⟩
  · exact Point.mk.injEq .. |>.mpr ⟨hd (.px .p1), hd (.py .p1)⟩
  · exact Point.mk.injEq .. |>.mpr ⟨hd (.px .p2), hd (.py .p2)⟩
  · exact Point.mk.injEq .. |>.mpr ⟨hd (.px .p3), hd (.py .p3)⟩

/-! ## The words of a wide register -/

theorem wordOf_toNat (v n : Nat) : (wordOf v n).toNat = v / 2 ^ (32 * n) % 2 ^ 32 := by
  simp [wordOf]

theorem pow_word_succ (n : Nat) : 2 ^ (32 * (n + 1)) = 2 ^ 32 * 2 ^ (32 * n) := by
  rw [← pow_add]
  congr 1
  omega

/-- What a replaced value is made of: the words above, the new word, the words below. -/
theorem replaceWord_eq (v n : Nat) (w : Word) :
    replaceWord v n w = (v / 2 ^ (32 * n) / 2 ^ 32 * 2 ^ 32 + w.toNat) * 2 ^ (32 * n) + v % 2 ^ (32 * n) := by
  unfold replaceWord
  rw [pow_word_succ, Nat.mul_comm (2 ^ 32) (2 ^ (32 * n)), ← Nat.div_div_eq_div_mul]
  ring

theorem replaceWord_div (v n : Nat) (w : Word) :
    replaceWord v n w / 2 ^ (32 * n) = v / 2 ^ (32 * n) / 2 ^ 32 * 2 ^ 32 + w.toNat := by
  have hb : 0 < 2 ^ (32 * n) := by positivity
  rw [replaceWord_eq, Nat.add_comm, Nat.add_mul_div_right _ _ hb, Nat.div_eq_of_lt (Nat.mod_lt _ hb), Nat.zero_add]

theorem replaceWord_mod (v n : Nat) (w : Word) : replaceWord v n w % 2 ^ (32 * n) = v % 2 ^ (32 * n) := by
  rw [replaceWord_eq, Nat.add_comm, Nat.add_mul_mod_self_right, Nat.mod_mod]

/-- The replaced word reads as written. -/
theorem wordOf_replaceWord_same (v n : Nat) (w : Word) : wordOf (replaceWord v n w) n = w := by
  apply BitVec.eq_of_toNat_eq
  rw [wordOf_toNat, replaceWord_div]
  have := w.isLt
  omega

/-- Every other word keeps its value. -/
theorem wordOf_replaceWord_of_ne (v n m : Nat) (w : Word) (h : m ≠ n) :
    wordOf (replaceWord v n w) m = wordOf v m := by
  apply BitVec.eq_of_toNat_eq
  rw [wordOf_toNat, wordOf_toNat]
  rcases Nat.lt_or_gt_of_ne h with hlt | hgt
  · obtain ⟨k, rfl⟩ : ∃ k, n = m + k + 1 := ⟨n - m - 1, by omega⟩
    have hp : 2 ^ (32 * (m + k + 1)) = 2 ^ (32 * m) * (2 ^ 32 * 2 ^ (32 * k)) := by
      rw [← pow_add, ← pow_add]
      congr 1
      ring
    have key : ∀ u : Nat, u / 2 ^ (32 * m) % 2 ^ 32 = u % 2 ^ (32 * (m + k + 1)) / 2 ^ (32 * m) % 2 ^ 32 := by
      intro u
      rw [hp, Nat.mod_mul_right_div_self, Nat.mod_mul_right_mod]
    rw [key, replaceWord_mod, ← key]
  · obtain ⟨k, rfl⟩ : ∃ k, m = n + k + 1 := ⟨m - n - 1, by omega⟩
    have hp : 2 ^ (32 * (n + k + 1)) = 2 ^ (32 * n) * (2 ^ 32 * 2 ^ (32 * k)) := by
      rw [← pow_add, ← pow_add]
      congr 1
      ring
    have hw := w.isLt
    rw [hp, ← Nat.div_div_eq_div_mul, ← Nat.div_div_eq_div_mul, replaceWord_div, ← Nat.div_div_eq_div_mul,
      ← Nat.div_div_eq_div_mul]
    have hq : (v / 2 ^ (32 * n) / 2 ^ 32 * 2 ^ 32 + w.toNat) / 2 ^ 32 = v / 2 ^ (32 * n) / 2 ^ 32 := by omega
    rw [hq]

/-- A value of `N` words stays a value of `N` words. -/
theorem replaceWord_lt {v n N : Nat} (w : Word) (hn : n < N) (hv : v < 2 ^ (32 * N)) :
    replaceWord v n w < 2 ^ (32 * N) := by
  obtain ⟨k, rfl⟩ : ∃ k, N = n + k + 1 := ⟨N - n - 1, by omega⟩
  have hp : 2 ^ (32 * (n + k + 1)) = 2 ^ (32 * n) * (2 ^ 32 * 2 ^ (32 * k)) := by
    rw [← pow_add, ← pow_add]
    congr 1
    ring
  have hb : 0 < 2 ^ (32 * n) := by positivity
  rw [hp, Nat.mul_comm (2 ^ (32 * n)), ← Nat.div_lt_iff_lt_mul hb] at hv ⊢
  rw [replaceWord_div]
  rw [Nat.mul_comm (2 ^ 32), ← Nat.div_lt_iff_lt_mul (by norm_num)] at hv
  have hw := w.isLt
  generalize v / 2 ^ (32 * n) / 2 ^ 32 = q at *
  calc q * 2 ^ 32 + w.toNat < (q + 1) * 2 ^ 32 := by omega
    _ ≤ 2 ^ (32 * k) * 2 ^ 32 := Nat.mul_le_mul_right _ hv
    _ = 2 ^ 32 * 2 ^ (32 * k) := Nat.mul_comm _ _

/-! ## Where the registers lie -/

/-- A register of a well-formed instance has at most 64 words, so it fits its slot. -/
theorem DataReg.words_le (c : Config) (h : c.wellFormed = true) (r : DataReg) : r.words c ≤ 64 := by
  simp only [Config.wellFormed, Bool.and_eq_true, decide_eq_true_eq, beq_iff_eq] at h
  cases r <;> simp only [DataReg.words, DataReg.width] <;> omega

/-- The width of a register of a well-formed instance is a whole number of words. -/
theorem DataReg.width_eq (c : Config) (h : c.wellFormed = true) (r : DataReg) : r.width c = 32 * r.words c := by
  simp only [Config.wellFormed, Bool.and_eq_true, decide_eq_true_eq, beq_iff_eq] at h
  cases r <;> simp only [DataReg.words, DataReg.width] <;> omega

theorem slotReg_slot (r : DataReg) : slotReg (r.slot / 0x100) = some r := by
  rcases r with _ | _ | _ | _ | _ | _ | q | q | q <;> first | rfl | (cases q <;> rfl)

theorem DataReg.slot_mod (r : DataReg) : r.slot % 0x100 = 0 := by
  rcases r with _ | _ | _ | _ | _ | _ | q | q | q <;> first | rfl | (cases q <;> rfl)

/-- A slot lies inside the window, above the control registers. -/
theorem DataReg.slot_bounds (r : DataReg) : 0x100 ≤ r.slot ∧ r.slot + 0x100 ≤ windowBytes := by
  rcases r with _ | _ | _ | _ | _ | _ | q | q | q <;> first | decide | (cases q <;> decide)

/-- The register of a slot number, from the number. -/
theorem slotReg_eq_some {n : Nat} {r : DataReg} (h : slotReg n = some r) : r.slot = n * 0x100 := by
  unfold slotReg at h
  split at h <;> first | (cases h; rfl) | exact absurd h (by simp)

/-- The words of a slot: below `N` the register's, from `N` on reserved (rules R62, R67). -/
theorem locate_slot (c : Config) (r : DataReg) (n : Nat) (hn : n < 64) :
    locate c (r.slot + 4 * n) = if n < r.words c then .data r n else .reserved := by
  have h0 := r.slot_mod
  have h1 : (r.slot + 4 * n) / 0x100 = r.slot / 0x100 := by omega
  have h2 : (r.slot + 4 * n) % 0x100 / 4 = n := by omega
  simp only [locate, slotBytes, h1, h2, slotReg_slot]

/-- The first block of the window holds the control registers. -/
theorem locate_control (c : Config) (off : Nat) (h : off < 0x100) : locate c off = controlReg off := by
  have h1 : off / 0x100 = 0 := by omega
  simp only [locate, slotBytes, h1, slotReg]

/-- Where a data word lies. -/
theorem locate_eq_data {c : Config} {off : Nat} {r : DataReg} {n : Nat} (h : locate c off = .data r n) :
    n < r.words c ∧ r.slot ≤ off ∧ off < r.slot + 0x100 ∧ off % slotBytes / 4 = n := by
  unfold locate at h
  split at h
  · rename_i q hq
    have hs := slotReg_eq_some hq
    split at h
    · cases h
      refine ⟨‹_›, ?_, ?_, rfl⟩ <;> simp only [slotBytes] at hs ⊢ <;> omega
    · cases h
  · unfold controlReg at h
    split at h <;> cases h

end Sys2Proof.Machine
end

