-- ==== Sys2Proof/Laws/Commands.lean ====
section
/-! SUPPORT. What a completion can do, said once: a command's meaning either takes one error and nothing else, or commits
its one effect. Provers cite `exec_next_cases` and do not unfold the meanings. -/

namespace Sys2Proof.Machine

/-! ## The commit -/

@[simp] theorem State.commit_ok (s t : State) : s.commit (.ok t) = .next t.succeed := rfl

@[simp] theorem State.commit_error (s : State) (e : ErrorCode) : s.commit (.error e) = .next (s.takeError e) := rfl

theorem State.needDomain_of_valid {s : State} (h : s.status.domv = true) : s.needDomain = .ok () := by
  simp [State.needDomain, h]

theorem State.needDomain_of_not_valid {s : State} (h : s.status.domv = false) :
    s.needDomain = .error .domainNotValid := by
  simp [State.needDomain, h]

/-! ## The effects and the errors of the commands -/

/-- The state a successful command commits, before the completion marks it done (rules R111 to R117, R132 to R135, R143,
R154, R155, R172). -/
inductive Effect (s : State) : Instr → State → Prop where
  | nop : Effect s .nop s
  | dominit : s.status.domv = false → isPrime s.dp = true → s.db % s.dp ≠ 0 →
      Effect s .dominit { s with status := { s.status with domv := true } }
  | pldg (rd) : s.status.domv = true → Effect s (.pldg rd) (s.setPoint rd ⟨s.dgx, s.dgy⟩)
  | peq (ra rb) : Effect s (.peq ra rb) (s.setEq ((s.point ra).equals (s.point rb)))
  | psxdy (ra rb) : Effect s (.psxdy ra rb) (s.setSxdy ((s.point ra).hasSameXDifferentY (s.point rb)))
  | pisid (ra) : Effect s (.pisid ra) (s.setId (s.point ra).isIdentity)
  | pneg (rd ra) : s.status.domv = true → Effect s (.pneg rd ra) (s.setPoint rd ((s.point ra).negate s.dp))
  | fred (rd ra) : s.status.domv = true → Effect s (.fred rd ra) (s.setField rd (normP s.dp (s.field ra)))
  | fneg (rd ra) : s.status.domv = true →
      Effect s (.fneg rd ra) (s.setField rd (normP s.dp (-(s.field ra : Int))))
  | fcmp (ra rb) : Effect s (.fcmp ra rb)
      (s.setOrder (decide (s.field ra < s.field rb)) (decide (s.field ra = s.field rb)))
  | pred (rd ra) : s.status.domv = true → Effect s (.pred rd ra) (s.setPoint rd ((s.point ra).reduce s.dp))
  | finv (rd ra x) : s.status.domv = true → inverse s.dp (s.field ra) = .ok x →
      Effect s (.finv rd ra) (s.setField rd x)
  | padd (rd ra rb r) : s.status.domv = true → add s.dp s.da (s.point ra) (s.point rb) = .ok r →
      Effect s (.padd rd ra rb) (s.setPoint rd r)
  | pdbl (rd ra r) : s.status.domv = true → dbl s.dp s.da (s.point ra) = .ok r →
      Effect s (.pdbl rd ra) (s.setPoint rd r)
  | pmul (rd ra r) : s.status.domv = true → mul s.dp s.da s.k (s.point ra) = .ok r →
      Effect s (.pmul rd ra) (s.setPoint rd r)

/-- The errors a command raises, and when (rules R180 to R184). -/
inductive Raises (s : State) : Instr → ErrorCode → Prop where
  | invalidCurve : s.status.domv = false → (isPrime s.dp = false ∨ s.db % s.dp = 0) →
      Raises s .dominit .invalidCurveParameter
  | locked : s.status.domv = true → Raises s .dominit .domainLocked
  | notValid {i} : i.needsDomain = true → s.status.domv = false → Raises s i .domainNotValid
  | noInverse {i} : i.inverts = true → s.status.domv = true → Raises s i .noInverse

/-! ## The only error of the arithmetic -/

theorem inverse_error {p : Nat} {v : Int} {e : ErrorCode} (h : inverse p v = .error e) : e = .noInverse := by
  simp only [inverse] at h
  split at h
  · cases h
    rfl
  · split at h
    · cases h
      rfl
    · cases h

theorem dbl_error {p a : Nat} {P : Point} {e : ErrorCode} (h : dbl p a P = .error e) : e = .noInverse := by
  unfold dbl at h
  split at h
  · cases h
  · split at h
    · cases h
      exact inverse_error ‹_›
    · cases h

theorem addGeneral_error {p : Nat} {P Q : Point} {e : ErrorCode} (h : addGeneral p P Q = .error e) :
    e = .noInverse := by
  simp only [addGeneral] at h
  split at h
  · cases h
    exact inverse_error ‹_›
  · cases h

theorem add_error {p a : Nat} {P Q : Point} {e : ErrorCode} (h : add p a P Q = .error e) : e = .noInverse := by
  unfold add at h
  split at h
  · exact dbl_error h
  · split at h
    · cases h
    · split at h
      · cases h
      · split at h
        · cases h
        · exact addGeneral_error h

theorem MulSeq.pass_error {p a : Nat} {m : MulSeq} {e : ErrorCode} (h : m.pass p a = .error e) : e = .noInverse := by
  unfold MulSeq.pass at h
  split at h
  · rename_i hr
    cases h
    split at hr
    · exact add_error hr
    · cases hr
  · split at h
    · cases h
      exact dbl_error ‹_›
    · cases h

theorem mulLoop_error {p a fuel : Nat} {m : MulSeq} {e : ErrorCode} (h : mulLoop p a fuel m = .error e) :
    e = .noInverse := by
  induction fuel generalizing m with
  | zero => cases h
  | succ f ih =>
    simp only [mulLoop] at h
    split at h
    · cases h
    · split at h
      · cases h
        exact MulSeq.pass_error ‹_›
      · exact ih h

theorem mul_error {p a k : Nat} {P : Point} {e : ErrorCode} (h : mul p a k P = .error e) : e = .noInverse := by
  simp only [mul] at h
  split at h
  · cases h
    exact mulLoop_error ‹_›
  · cases h

/-! ## The inversion lemma -/

/-- Everything a completion can do: one effect, committed, or one error, taken. -/
theorem exec_next_cases (i : Instr) (s : State) :
    (∃ u, Effect s i u ∧ exec i s = .next u.succeed) ∨ (∃ e, Raises s i e ∧ exec i s = .next (s.takeError e)) := by
  have valid : s.status.domv = true ∨ s.status.domv = false := by cases s.status.domv <;> simp
  cases i with
  | nop => exact .inl ⟨s, .nop, rfl⟩
  | peq ra rb => exact .inl ⟨_, .peq ra rb, rfl⟩
  | psxdy ra rb => exact .inl ⟨_, .psxdy ra rb, rfl⟩
  | pisid ra => exact .inl ⟨_, .pisid ra, rfl⟩
  | fcmp ra rb => exact .inl ⟨_, .fcmp ra rb, rfl⟩
  | dominit =>
    rcases valid with h | h
    · exact .inr ⟨_, .locked h, by simp [exec, execDominit, State.domainCheck, h]⟩
    · by_cases hp : isPrime s.dp = true
      · by_cases hb : s.db % s.dp = 0
        · exact .inr ⟨_, .invalidCurve h (.inr hb), by simp [exec, execDominit, State.domainCheck, h, hp, hb]⟩
        · exact .inl ⟨_, .dominit h hp hb, by simp [exec, execDominit, State.domainCheck, h, hp, hb]⟩
      · have hp' : isPrime s.dp = false := by simpa using hp
        exact .inr ⟨_, .invalidCurve h (.inl hp'), by simp [exec, execDominit, State.domainCheck, h, hp']⟩
  | pldg rd =>
    rcases valid with h | h
    · exact .inl ⟨_, .pldg rd h, by simp [exec, execPldg, State.needDomain_of_valid h]; rfl⟩
    · exact .inr ⟨_, .notValid rfl h, by simp [exec, execPldg, State.needDomain_of_not_valid h]; rfl⟩
  | pneg rd ra =>
    rcases valid with h | h
    · exact .inl ⟨_, .pneg rd ra h, by simp [exec, execPneg, State.needDomain_of_valid h]; rfl⟩
    · exact .inr ⟨_, .notValid rfl h, by simp [exec, execPneg, State.needDomain_of_not_valid h]; rfl⟩
  | fred rd ra =>
    rcases valid with h | h
    · exact .inl ⟨_, .fred rd ra h, by simp [exec, execFred, State.needDomain_of_valid h]; rfl⟩
    · exact .inr ⟨_, .notValid rfl h, by simp [exec, execFred, State.needDomain_of_not_valid h]; rfl⟩
  | fneg rd ra =>
    rcases valid with h | h
    · exact .inl ⟨_, .fneg rd ra h, by simp [exec, execFneg, State.needDomain_of_valid h]; rfl⟩
    · exact .inr ⟨_, .notValid rfl h, by simp [exec, execFneg, State.needDomain_of_not_valid h]; rfl⟩
  | pred rd ra =>
    rcases valid with h | h
    · exact .inl ⟨_, .pred rd ra h, by simp [exec, execPred, State.needDomain_of_valid h]; rfl⟩
    · exact .inr ⟨_, .notValid rfl h, by simp [exec, execPred, State.needDomain_of_not_valid h]; rfl⟩
  | finv rd ra =>
    rcases valid with h | h
    · cases hx : inverse s.dp (s.field ra) with
      | ok x => exact .inl ⟨_, .finv rd ra x h hx, by simp [exec, execFinv, State.needDomain_of_valid h, hx]; rfl⟩
      | error e =>
        obtain rfl := inverse_error hx
        exact .inr ⟨_, .noInverse rfl h, by simp [exec, execFinv, State.needDomain_of_valid h, hx]; rfl⟩
    · exact .inr ⟨_, .notValid rfl h, by simp [exec, execFinv, State.needDomain_of_not_valid h]; rfl⟩
  | padd rd ra rb =>
    rcases valid with h | h
    · cases hx : add s.dp s.da (s.point ra) (s.point rb) with
      | ok r => exact .inl ⟨_, .padd rd ra rb r h hx, by simp [exec, execPadd, State.needDomain_of_valid h, hx]; rfl⟩
      | error e =>
        obtain rfl := add_error hx
        exact .inr ⟨_, .noInverse rfl h, by simp [exec, execPadd, State.needDomain_of_valid h, hx]; rfl⟩
    · exact .inr ⟨_, .notValid rfl h, by simp [exec, execPadd, State.needDomain_of_not_valid h]; rfl⟩
  | pdbl rd ra =>
    rcases valid with h | h
    · cases hx : dbl s.dp s.da (s.point ra) with
      | ok r => exact .inl ⟨_, .pdbl rd ra r h hx, by simp [exec, execPdbl, State.needDomain_of_valid h, hx]; rfl⟩
      | error e =>
        obtain rfl := dbl_error hx
        exact .inr ⟨_, .noInverse rfl h, by simp [exec, execPdbl, State.needDomain_of_valid h, hx]; rfl⟩
    · exact .inr ⟨_, .notValid rfl h, by simp [exec, execPdbl, State.needDomain_of_not_valid h]; rfl⟩
  | pmul rd ra =>
    rcases valid with h | h
    · cases hx : mul s.dp s.da s.k (s.point ra) with
      | ok r => exact .inl ⟨_, .pmul rd ra r h hx, by simp [exec, execPmul, State.needDomain_of_valid h, hx]; rfl⟩
      | error e =>
        obtain rfl := mul_error hx
        exact .inr ⟨_, .noInverse rfl h, by simp [exec, execPmul, State.needDomain_of_valid h, hx]; rfl⟩
    · exact .inr ⟨_, .notValid rfl h, by simp [exec, execPmul, State.needDomain_of_not_valid h]; rfl⟩

/-- Every completion answers a next state, whatever the state and the operands. -/
theorem exec_is_next (i : Instr) (s : State) : ∃ t, exec i s = .next t := by
  rcases exec_next_cases i s with ⟨u, _, h⟩ | ⟨e, _, h⟩ <;> exact ⟨_, h⟩

end Sys2Proof.Machine
end

