-- ==== Sys2Proof/Laws/Decode.lean ====
section
/-! SUPPORT. The fields of a word and the word of fields are inverse, and what each selector reads. -/

namespace Sys2Proof

@[simp] theorem fieldsOf_word (f : Fields) : fieldsOf f.word = f := by
  have h : ∀ (a : BitVec 8) (b c d : BitVec 4) (e : BitVec 12),
      fieldsOf (Fields.word ⟨a, b, c, d, e⟩) = ⟨a, b, c, d, e⟩ := by
    intro a b c d e
    simp only [fieldsOf, Fields.word, Fields.mk.injEq]
    refine ⟨?_, ?_, ?_, ?_, ?_⟩ <;>
      (apply BitVec.eq_of_getLsbD_eq
       intro i hi
       simp only [BitVec.getLsbD_extractLsb', BitVec.getLsbD_append]
       split_ifs <;> first | omega | (simp only [hi, decide_true, Bool.true_and]; congr 1; omega))
  exact h f.op f.rd f.ra f.rb f.z

@[simp] theorem word_fieldsOf (w : Word) : (fieldsOf w).word = w := by
  simp only [fieldsOf, Fields.word]
  apply BitVec.eq_of_getLsbD_eq
  intro i hi
  simp only [BitVec.getLsbD_extractLsb', BitVec.getLsbD_append]
  split_ifs <;> (rw [decide_eq_true (by omega), Bool.true_and]; congr 1; omega)

/-- Rule R90: a word as a number, field by field. -/
theorem Fields.word_toNat (f : Fields) :
    f.word.toNat =
      f.op.toNat * 2 ^ 24 + f.rd.toNat * 2 ^ 20 + f.ra.toNat * 2 ^ 16 + f.rb.toNat * 2 ^ 12 + f.z.toNat := by
  have h1 := f.rd.isLt
  have h2 := f.ra.isLt
  have h3 := f.rb.isLt
  have h4 := f.z.isLt
  simp only [Fields.word, BitVec.toNat_append]
  rw [← Nat.shiftLeft_add_eq_or_of_lt h1, ← Nat.shiftLeft_add_eq_or_of_lt h2, ← Nat.shiftLeft_add_eq_or_of_lt h3,
    ← Nat.shiftLeft_add_eq_or_of_lt h4]
  simp only [Nat.shiftLeft_eq]
  ring

theorem pSelector_eq_ok {b : BitVec 4} {r : PReg} : pSelector b = .ok r ↔ b = r.selector := by
  revert b r
  intro b r
  cases r <;> revert b <;> decide

theorem fSelector_eq_ok {b : BitVec 4} {r : FReg} : fSelector b = .ok r ↔ b = r.selector := by
  revert b r
  intro b r
  cases r <;> revert b <;> decide

@[simp] theorem pSelector_selector (r : PReg) : pSelector r.selector = .ok r := pSelector_eq_ok.mpr rfl

@[simp] theorem fSelector_selector (r : FReg) : fSelector r.selector = .ok r := fSelector_eq_ok.mpr rfl

theorem unused_eq_ok {b : BitVec 4} {u : Unit} : unused b = .ok u ↔ b = 0#4 := by
  unfold unused
  split <;> simp_all

theorem reservedZero_eq_ok {f : Fields} {u : Unit} : reservedZero f = .ok u ↔ f.z = 0#12 := by
  unfold reservedZero
  split <;> simp_all

end Sys2Proof
end

