-- ==== Sys2Proof/Laws/PerInstr.lean ====
section
/-! SUPPORT. One family of statements per command: `MatchesRow`, that the encoder's word lies in the command's row of the
opcode table (spec/30_encoding.md rule R93). -/

namespace Sys2Proof.Laws.MatchesRow

/-- The word of the command matches its row. -/
def Statement (i : Instr) : Prop := i.row.hit (encode i) = true

theorem nop : Statement .nop := by unfold Statement; decide

theorem dominit : Statement .dominit := by unfold Statement; decide

theorem pldg (rd : PReg) : Statement (.pldg rd) := by unfold Statement; cases rd <;> decide

theorem peq (ra rb : PReg) : Statement (.peq ra rb) := by unfold Statement; cases ra <;> cases rb <;> decide

theorem psxdy (ra rb : PReg) : Statement (.psxdy ra rb) := by unfold Statement; cases ra <;> cases rb <;> decide

theorem pisid (ra : PReg) : Statement (.pisid ra) := by unfold Statement; cases ra <;> decide

theorem pneg (rd ra : PReg) : Statement (.pneg rd ra) := by unfold Statement; cases rd <;> cases ra <;> decide

theorem fred (rd ra : FReg) : Statement (.fred rd ra) := by unfold Statement; cases rd <;> cases ra <;> decide

theorem fneg (rd ra : FReg) : Statement (.fneg rd ra) := by unfold Statement; cases rd <;> cases ra <;> decide

theorem fcmp (ra rb : FReg) : Statement (.fcmp ra rb) := by unfold Statement; cases ra <;> cases rb <;> decide

theorem pred (rd ra : PReg) : Statement (.pred rd ra) := by unfold Statement; cases rd <;> cases ra <;> decide

theorem finv (rd ra : FReg) : Statement (.finv rd ra) := by unfold Statement; cases rd <;> cases ra <;> decide

theorem padd (rd ra rb : PReg) : Statement (.padd rd ra rb) := by
  unfold Statement; cases rd <;> cases ra <;> cases rb <;> decide

theorem pdbl (rd ra : PReg) : Statement (.pdbl rd ra) := by unfold Statement; cases rd <;> cases ra <;> decide

theorem pmul (rd ra : PReg) : Statement (.pmul rd ra) := by unfold Statement; cases rd <;> cases ra <;> decide

end Sys2Proof.Laws.MatchesRow
end

