-- ==== Sys2Proof/Laws/Step.lean ====
section
/-! SUPPORT. What a step can do, said once (`step_cases`), and what a host access does. -/

namespace Sys2Proof.Machine

/-! ## Accesses -/

/-- Rule R69: exactly the aligned 32-bit accesses inside the window have an offset. -/
theorem accessOffset_eq_ok (c : Config) (addr size off : Nat) :
    accessOffset c addr size = .ok off ↔ addr = c.base + off ∧ size = 4 ∧ off < windowBytes ∧ off % 4 = 0 := by
  unfold accessOffset
  split
  · simp only [reduceCtorEq, false_iff]
    omega
  · split
    · simp only [reduceCtorEq, false_iff]
      omega
    · split
      · simp only [reduceCtorEq, false_iff]
        omega
      · simp only [Except.ok.injEq]
        omega

/-- A well-formed access, by its offset. -/
theorem accessOffset_base (c : Config) (off : Nat) (h : off < windowBytes) (ha : off % 4 = 0) :
    accessOffset c (c.base + off) 4 = .ok off :=
  (accessOffset_eq_ok c _ _ _).mpr ⟨rfl, rfl, h, ha⟩

/-! ## The step -/

@[simp] theorem step_nil {s : State} (h : s.turns = []) : step s = s.coreTurn := by
  simp [step, State.nextTurn, h]

@[simp] theorem step_cons {s : State} {t : Turn} {rest : List Turn} (h : s.turns = t :: rest) :
    step s = { s with turns := rest }.takeTurn t := by
  simp [step, State.nextTurn, h]

/-- When the core has the turn, the step is the core's turn, with the turn taken off the schedule. -/
theorem step_core {s : State} (h : s.coreNext = true) :
    step s = { s with turns := s.turns.tail }.coreTurn := by
  cases ht : s.turns with
  | nil =>
    rw [step_nil ht, List.tail_nil, ← ht]
  | cons t rest =>
    rw [step_cons ht]
    cases t with
    | core => rfl
    | hostRead _ _ => simp [State.coreNext, ht] at h
    | hostWrite _ _ _ => simp [State.coreNext, ht] at h
    | hardReset => simp [State.coreNext, ht] at h

/-- Everything a step that answers a next state can be. -/
inductive StepCase (s t : State) : Prop where
  /-- The core has the turn and nothing is pending. -/
  | idle : s.coreNext = true → s.status.busy = false → t = { s with turns := s.turns.tail } → StepCase s t
  /-- The core completes an illegal word. -/
  | illegal : s.coreNext = true → s.status.busy = true → (∃ e, decode s.cmd = .error e) →
      t = { s with turns := s.turns.tail }.takeError .illegalCommand → StepCase s t
  /-- The core completes a command. -/
  | command (i : Instr) : s.coreNext = true → s.status.busy = true → decode s.cmd = .ok i →
      exec i { s with turns := s.turns.tail } = .next t → StepCase s t
  | hardReset (rest) : s.turns = .hardReset :: rest → t = { s with turns := rest }.resetBlock → StepCase s t
  | hostRead (off rest) : s.turns = .hostRead (s.cfg.base + off) 4 :: rest → off < windowBytes → off % 4 = 0 →
      t = { s with turns := rest, rdata := some (s.readWord off) } → StepCase s t
  | hostWrite (off rest v) : s.turns = .hostWrite (s.cfg.base + off) 4 v :: rest → off < windowBytes → off % 4 = 0 →
      t = { s with turns := rest }.writeLoc (locate s.cfg off) v → StepCase s t

/-- The inversion lemma of the step. -/
theorem step_cases {s t : State} (h : step s = .next t) : StepCase s t := by
  by_cases hc : s.coreNext = true
  · rw [step_core hc] at h
    unfold State.coreTurn at h
    split at h
    · rename_i hb
      unfold State.complete at h
      split at h
      · cases h
        exact .illegal hc hb ⟨_, ‹_›⟩ rfl
      · exact .command _ hc hb ‹_› h
    · rename_i hb
      cases h
      exact .idle hc (by simpa using hb) rfl
  · cases ht : s.turns with
    | nil => simp [State.coreNext, ht] at hc
    | cons a rest =>
      rw [step_cons ht] at h
      cases a with
      | core => simp [State.coreNext, ht] at hc
      | hardReset =>
        cases h
        exact .hardReset rest ht rfl
      | hostRead addr size =>
        simp only [State.takeTurn, State.hostRead] at h
        split at h
        · cases h
        · rename_i off ho
          obtain ⟨rfl, rfl, hw, ha⟩ := (accessOffset_eq_ok ..).mp ho
          cases h
          exact .hostRead off rest ht hw ha rfl
      | hostWrite addr size v =>
        simp only [State.takeTurn, State.hostWrite] at h
        split at h
        · cases h
        · rename_i off ho
          obtain ⟨rfl, rfl, hw, ha⟩ := (accessOffset_eq_ok ..).mp ho
          cases h
          exact .hostWrite off rest v ht hw ha rfl

/-- A scheduled read of an aligned offset. -/
theorem step_hostRead {s : State} {off : Nat} {rest : List Turn} (h : s.turns = .hostRead (s.cfg.base + off) 4 :: rest)
    (hw : off < windowBytes) (ha : off % 4 = 0) :
    step s = .next { s with turns := rest, rdata := some (s.readWord off) } := by
  rw [step_cons h]
  simp only [State.takeTurn, State.hostRead, accessOffset_base s.cfg off hw ha]
  rfl

/-- A scheduled write of an aligned offset. -/
theorem step_hostWrite {s : State} {off : Nat} {v : Word} {rest : List Turn}
    (h : s.turns = .hostWrite (s.cfg.base + off) 4 v :: rest) (hw : off < windowBytes) (ha : off % 4 = 0) :
    step s = .next ({ s with turns := rest }.writeLoc (locate s.cfg off) v) := by
  rw [step_cons h]
  simp only [State.takeTurn, State.hostWrite, accessOffset_base s.cfg off hw ha]

/-! ## A host write, by what it does -/

/-- Everything a host write can do to the block. -/
inductive WriteCase (s : State) (l : Loc) (v : Word) (t : State) : Prop where
  | reset : l = .ctrl → v.getLsbD 0 = true → t = s.resetBlock → WriteCase s l v t
  | clear : l = .status → t = s.clearStatus v → WriteCase s l v t
  | issue : l = .cmd → s.status.busy = false → s.status.fatal = false → t = s.issue v → WriteCase s l v t
  | data (r n) : l = .data r n → s.status.busy = false → (r.isDomain = true → s.status.domv = false) →
      t = s.setDataReg r (replaceWord (s.dataReg r) n v) → WriteCase s l v t
  | ignored : t = s.markIgnored → WriteCase s l v t
  | nothing : t = s → WriteCase s l v t

theorem writeLoc_cases (s : State) (l : Loc) (v : Word) : WriteCase s l v (s.writeLoc l v) := by
  cases l with
  | ctrl =>
    by_cases h : v.getLsbD 0 = true
    · exact .reset rfl h (by simp only [State.writeLoc, State.writeCtrl, h, if_true])
    · exact .nothing (by simp only [State.writeLoc, State.writeCtrl, h]; rfl)
  | status => exact .clear rfl rfl
  | cmd =>
    cases hb : s.status.busy <;> cases hf : s.status.fatal
    · exact .issue rfl hb hf (by simp [State.writeLoc, State.writeCmd, hb, hf])
    all_goals exact .ignored (by simp [State.writeLoc, State.writeCmd, hb, hf])
  | data r n =>
    by_cases h : (s.status.busy || (r.isDomain && s.status.domv)) = true
    · exact .ignored (by simp only [State.writeLoc, State.writeData, h, if_true])
    · have h' : (s.status.busy || (r.isDomain && s.status.domv)) = false := by simpa using h
      have hs := Bool.or_eq_false_iff.mp h'
      refine .data r n rfl hs.1 (fun hr => ?_) (by simp only [State.writeLoc, State.writeData, h']; rfl)
      simpa [hr] using hs.2
  | id => exact .nothing rfl
  | version => exact .nothing rfl
  | cfg => exact .nothing rfl
  | errcode => exact .nothing rfl
  | esticky => exact .nothing rfl
  | flags => exact .nothing rfl
  | reserved => exact .nothing rfl

/-! ## Induction over runs -/

/-- What every step keeps holds in every state reached. -/
theorem Reaches.keeps {I : State → Prop} (hk : ∀ s t, I s → step s = .next t → I t) {s t : State} (h : Reaches s t)
    (hs : I s) : I t := by
  induction h with
  | refl => exact hs
  | more _ h ih => exact hk _ _ ih h

end Sys2Proof.Machine
end

