-- ==== Sys2Proof/Tests/Slice0.lean ====
section
/-! SUPPORT. Tests of the model against spec/95_test_vectors.md (the section stands with each group), the smoke test of
WellFormed.lean, and a witness of the hypotheses of every statement of Certificates/Slice0/Obligations.lean. -/

namespace Sys2Proof.Tests

open Sys2Proof Sys2Proof.Machine

/-! ## Small states -/

/-- The domain D17 of spec/95_test_vectors.md section 2, valid, with `P1 = G`, `P2 = 2G`, `K = 6`. -/
def d17 : State :=
  { State.reset with
    dp := 17, da := 2, db := 2, dgx := 5, dgy := 1, p1 := ⟨5, 1⟩, p2 := ⟨6, 3⟩, k := 6
    status := { State.reset.status with domv := true } }

/-- The domain D5 of section 2, valid, with `P1 = (1, 2)`, `P0 = (3, 3)`, `K = 2`. -/
def d5 : State :=
  { State.reset with
    dp := 5, da := 1, db := 2, p0 := ⟨3, 3⟩, p1 := ⟨1, 2⟩, k := 2
    status := { State.reset.status with domv := true } }

/-- `s` with the command word `w` issued and the schedule `ts`. -/
def pending (s : State) (w : Word) (ts : List Turn) : State := { s.issue w with turns := ts }

/-- `s` with a host write of `v` at offset `off` next, and nothing after it. -/
def writing (s : State) (off : Nat) (v : Word) : State := { s with turns := [.hostWrite (s.cfg.base + off) 4 v] }

/-- `s` with a host read at offset `off` next, and nothing after it. -/
def reading (s : State) (off : Nat) : State := { s with turns := [.hostRead (s.cfg.base + off) 4] }

/-- The outcome is a next state of which `p` holds. -/
def ends (o : Host.Outcome State Fault Refusal) (p : State → Bool) : Bool :=
  match o with
  | .next t => p t
  | .fault _ => false
  | .refused _ => false

theorem ends_next {o : Host.Outcome State Fault Refusal} {p : State → Bool} (h : ends o p = true) :
    ∃ t, o = .next t ∧ p t = true := by
  cases o with
  | next t => exact ⟨t, rfl, h⟩
  | fault f => simp [ends] at h
  | refused f => simp [ends] at h

/-- The completion left `STATUS`, `ERRCODE` and `ESTICKY` reading these words. -/
def outcomeWords (t : State) (status errcode esticky : Word) : Bool :=
  t.readWord 0x10 == status && t.readWord 0x14 == errcode && t.readWord 0x18 == esticky

/-! ## WellFormed -/

theorem test_default_well_formed : Config.default.wellFormed = true := by decide
theorem test_least_widths : Config.wellFormed ⟨64, 32, 0⟩ = true := by decide
theorem test_greatest_widths : Config.wellFormed ⟨2048, 2048, 0⟩ = true := by decide
theorem test_w_not_multiple : Config.wellFormed ⟨80, 64, 0⟩ = false := by decide
theorem test_w_too_small : Config.wellFormed ⟨32, 64, 0⟩ = false := by decide
theorem test_w_too_large : Config.wellFormed ⟨2080, 64, 0⟩ = false := by decide
theorem test_kw_not_multiple : Config.wellFormed ⟨64, 33, 0⟩ = false := by decide
theorem test_kw_too_small : Config.wellFormed ⟨64, 0, 0⟩ = false := by decide
theorem test_kw_too_large : Config.wellFormed ⟨64, 2080, 0⟩ = false := by decide

/-- The illegal words of section 3.1. -/
def illegalWords : List Word :=
  [0x05000000#32, 0x41000000#32, 0xFFFFFFFF#32, 0x00000001#32, 0x00100000#32, 0x01001000#32, 0x30412000#32,
   0x30012001#32, 0x31011000#32, 0x10112000#32, 0x12021000#32, 0x02110000#32, 0x40F10000#32, 0x1A000800#32]

theorem test_illegal_words_refused : illegalWords.all (fun w => !legalWord w) = true := by decide

/-! ## Decoding: words written out from spec/30_encoding.md rules R90 and R93, OP RD RA RB Z -/

theorem test_decode_nop : decode 0b00000000_0000_0000_0000_000000000000#32 = .ok .nop := by decide
theorem test_decode_dominit : decode 0b00000001_0000_0000_0000_000000000000#32 = .ok .dominit := by decide
theorem test_decode_pldg : decode 0b00000010_0001_0000_0000_000000000000#32 = .ok (.pldg .p1) := by decide
theorem test_decode_peq : decode 0b00010000_0000_0001_0010_000000000000#32 = .ok (.peq .p1 .p2) := by decide
theorem test_decode_psxdy : decode 0b00010001_0000_0011_0010_000000000000#32 = .ok (.psxdy .p3 .p2) := by decide
theorem test_decode_pisid : decode 0b00010010_0000_0010_0000_000000000000#32 = .ok (.pisid .p2) := by decide
theorem test_decode_pneg : decode 0b00010011_0010_0011_0000_000000000000#32 = .ok (.pneg .p2 .p3) := by decide
theorem test_decode_fred : decode 0b00011000_0001_0011_0000_000000000000#32 = .ok (.fred .f1 .f3) := by decide
theorem test_decode_fneg : decode 0b00011001_0001_0000_0000_000000000000#32 = .ok (.fneg .f1 .f0) := by decide
theorem test_decode_fcmp : decode 0b00011010_0000_0000_0001_000000000000#32 = .ok (.fcmp .f0 .f1) := by decide
theorem test_decode_pred : decode 0b00011011_0010_0001_0000_000000000000#32 = .ok (.pred .p2 .p1) := by decide
theorem test_decode_finv : decode 0b00100000_0001_0000_0000_000000000000#32 = .ok (.finv .f1 .f0) := by decide
theorem test_decode_padd : decode 0b00110000_0011_0000_0010_000000000000#32 = .ok (.padd .p3 .p0 .p2) := by decide
theorem test_decode_pdbl : decode 0b00110001_0010_0001_0000_000000000000#32 = .ok (.pdbl .p2 .p1) := by decide
theorem test_decode_pmul : decode 0b01000000_0011_0000_0000_000000000000#32 = .ok (.pmul .p3 .p0) := by decide

/-- Section 3.1, the encodings of the left and right columns. -/
theorem test_encode_words :
    [Instr.pldg .p3, .peq .p1 .p2, .psxdy .p1 .p2, .pneg .p0 .p0, .fred .f1 .f0, .fcmp .f3 .f3, .pred .p2 .p2,
      .finv .f0 .f0, .padd .p1 .p3 .p0, .pdbl .p3 .p3, .pmul .p0 .p2].map encode =
    [0x02300000#32, 0x10012000#32, 0x11012000#32, 0x13000000#32, 0x18100000#32, 0x1A033000#32, 0x1B220000#32,
      0x20000000#32, 0x30130000#32, 0x31330000#32, 0x40020000#32] := by decide

theorem test_unassigned_opcode : decode 0x05000000#32 = .error .unassignedOpcode := by decide
theorem test_reserved_bits : decode 0x1A000800#32 = .error .reservedBits := by decide
theorem test_unused_selector : decode 0x31011000#32 = .error .unusedSelector := by decide
theorem test_selector_above_3 : decode 0x40F10000#32 = .error .selectorAbove3 := by decide

theorem test_table_word : decodeTableWord 32 0x30012000 = some (.padd .p0 .p1 .p2) := by decide

/-! ## The commands (sections 3.2 to 3.7) -/

theorem test_nop_from_reset :
    ends (exec .nop (pending State.reset 0#32 [])) (fun t => outcomeWords t 0x02#32 0#32 0#32) = true := by decide

theorem test_dominit_17 :
    ends (exec .dominit { State.reset with dp := 17, db := 2 }) (fun t => outcomeWords t 0x0A#32 0#32 0#32) = true := by
  decide
theorem test_dominit_residue_zero :
    ends (exec .dominit { State.reset with dp := 17, db := 34 }) (fun t => outcomeWords t 0x16#32 1#32 2#32) = true := by
  decide

theorem test_pldg :
    ends (exec (.pldg .p3) d17) (fun t => t.p3 == ⟨5, 1⟩ && outcomeWords t 0x0A#32 0#32 0#32) = true := by decide
theorem test_pldg_no_domain :
    ends (exec (.pldg .p1) State.reset) (fun t => t.p1 == ⟨0, 0⟩ && outcomeWords t 0x06#32 4#32 0x10#32) = true := by
  decide

theorem test_peq_raw :
    ends (exec (.peq .p1 .p2) { d17 with p2 := ⟨22, 18⟩ }) (fun t => t.readWord 0x1C == 0#32) = true := by decide
theorem test_peq_itself : ends (exec (.peq .p1 .p1) d17) (fun t => t.readWord 0x1C == 1#32) = true := by decide

theorem test_psxdy_raw :
    ends (exec (.psxdy .p1 .p2) { d17 with p2 := ⟨5, 18⟩ }) (fun t => t.readWord 0x1C == 2#32) = true := by decide
theorem test_psxdy_sentinel :
    ends (exec (.psxdy .p0 .p2) { d17 with p2 := ⟨0, 6⟩ }) (fun t => t.readWord 0x1C == 2#32) = true := by decide

theorem test_pisid_reset : ends (exec (.pisid .p0) State.reset) (fun t => t.readWord 0x1C == 4#32) = true := by decide
theorem test_pisid_raw :
    ends (exec (.pisid .p1) { d17 with p1 := ⟨17, 0⟩ }) (fun t => t.readWord 0x1C == 0#32) = true := by decide

theorem test_pneg_unreduced :
    ends (exec (.pneg .p2 .p1) { d17 with p1 := ⟨22, 18⟩ }) (fun t => t.p2 == ⟨22, 16⟩) = true := by decide
theorem test_pneg_multiple :
    ends (exec (.pneg .p1 .p1) { d17 with p1 := ⟨3, 34⟩ }) (fun t => t.p1 == ⟨3, 0⟩) = true := by decide

theorem test_fred_40 : ends (exec (.fred .f1 .f0) { d17 with f0 := 40 }) (fun t => t.f1 == 6 && t.f0 == 40) = true := by
  decide
theorem test_fred_all_ones :
    ends (exec (.fred .f1 .f0) { d17 with f0 := 2 ^ 64 - 1 }) (fun t => t.f1 == 0) = true := by decide

theorem test_fneg_14 : ends (exec (.fneg .f1 .f0) { d17 with f0 := 14 }) (fun t => t.f1 == 3) = true := by decide
theorem test_fneg_multiple : ends (exec (.fneg .f1 .f0) { d17 with f0 := 34, f1 := 9 }) (fun t => t.f1 == 0) = true := by
  decide

theorem test_fcmp_raw :
    ends (exec (.fcmp .f0 .f1) { State.reset with f0 := 5, f1 := 22 }) (fun t => t.readWord 0x1C == 0x08#32) = true := by
  decide
theorem test_fcmp_itself : ends (exec (.fcmp .f3 .f3) d17) (fun t => t.readWord 0x1C == 0x10#32) = true := by decide

theorem test_pred_unreduced :
    ends (exec (.pred .p1 .p1) { d17 with p1 := ⟨22, 18⟩ }) (fun t => t.p1 == ⟨5, 1⟩) = true := by decide
theorem test_pred_to_sentinel :
    ends (exec (.pred .p2 .p1) { d17 with p1 := ⟨17, 34⟩ }) (fun t => t.p2 == ⟨0, 0⟩) = true := by decide

theorem test_finv_22 :
    ends (exec (.finv .f1 .f0) { d17 with f0 := 22, f1 := 99 })
      (fun t => t.f1 == 7 && outcomeWords t 0x0A#32 0#32 0#32) = true := by decide
theorem test_finv_34 :
    ends (exec (.finv .f1 .f0) { d17 with f0 := 34, f1 := 99 })
      (fun t => t.f1 == 99 && outcomeWords t 0x0E#32 2#32 4#32) = true := by decide

theorem test_padd_negated_dx :
    ends (exec (.padd .p0 .p1 .p2) { d17 with p1 := ⟨10, 6⟩, p2 := ⟨3, 16⟩ }) (fun t => t.p0 == ⟨5, 16⟩) = true := by
  decide
theorem test_padd_unreduced_pair :
    ends (exec (.padd .p0 .p1 .p2) { d17 with p2 := ⟨22, 18⟩ })
      (fun t => t.p0 == ⟨0, 0⟩ && outcomeWords t 0x0E#32 2#32 4#32) = true := by decide

theorem test_pdbl_generator : ends (exec (.pdbl .p1 .p1) d17) (fun t => t.p1 == ⟨6, 3⟩) = true := by decide
theorem test_pdbl_order_two :
    ends (exec (.pdbl .p0 .p1) { d5 with p1 := ⟨4, 0⟩ })
      (fun t => t.p0 == ⟨3, 3⟩ && outcomeWords t 0x0E#32 2#32 4#32) = true := by decide

theorem test_pmul_6 :
    ends (exec (.pmul .p0 .p1) d17)
      (fun t => t.p0 == ⟨16, 13⟩ && t.k == 6 && t.p1 == ⟨5, 1⟩ && outcomeWords t 0x0A#32 0#32 0#32) = true := by decide
theorem test_pmul_trailing_doubling :
    ends (exec (.pmul .p0 .p1) d5)
      (fun t => t.p0 == ⟨3, 3⟩ && t.k == 2 && outcomeWords t 0x0E#32 2#32 4#32) = true := by decide

/-! ## The functions at the corners of sections 3.4 to 3.7 -/

theorem test_norm : [40, -14, -34, 17, 0, 16, -1].map (normP 17) = [6, 3, 0, 0, 0, 16, 16] := by decide
theorem test_inverse_negative : inverse 17 (-3) = .ok 11 := by decide
theorem test_inverse_toy : inverse 270292550838977 1283198040619538 = .ok 12978358501581 := by decide
theorem test_dbl_toy :
    dbl 270292550838977 305656052155099 ⟨415909356139339, 641599020309769⟩ =
      .ok ⟨79158436553647, 235056299880974⟩ := by decide +kernel
theorem test_mul_exceptional : mul 17 2 64 ⟨5, 1⟩ = .ok ⟨0, 0⟩ := by decide
theorem test_mul_collision : mul 17 2 45 ⟨5, 1⟩ = .ok ⟨0, 6⟩ := by decide
theorem test_mul_all_ones : mul 17 2 (2 ^ 64 - 1) ⟨5, 1⟩ = .ok ⟨10, 11⟩ := by decide +kernel
theorem test_mul_raw : mul 17 2 1 ⟨22, 18⟩ = .ok ⟨22, 18⟩ := by decide

/-! ## Steps (section 3.8) and words (section 3.9) -/

/-- The state after step 1 of section 3.8. -/
def busy17 : State := pending d17 0x40010000#32 []

theorem test_issue :
    ends (step (writing d17 0x20 0x40010000#32))
      (fun t => t.cmd == 0x40010000#32 && t.readWord 0x10 == 0x09#32 && t.p0 == ⟨0, 0⟩) = true := by decide
theorem test_early_read : ends (step (reading busy17 0x1000)) (fun t => t.rdata == some 0#32) = true := by decide
theorem test_write_while_busy :
    ends (step (writing busy17 0x1200 9#32)) (fun t => t.p1 == ⟨5, 1⟩ && t.readWord 0x10 == 0x29#32) = true := by decide
theorem test_issue_while_busy :
    ends (step (writing busy17 0x20 0#32))
      (fun t => t.cmd == 0x40010000#32 && t.readWord 0x10 == 0x29#32) = true := by decide
theorem test_completion :
    ends (step busy17) (fun t => t.p0 == ⟨16, 13⟩ && t.readWord 0x10 == 0x0A#32) = true := by decide
theorem test_domain_locked_write :
    ends (step (writing d17 0x0100 19#32)) (fun t => t.dp == 17 && t.readWord 0x10 == 0x28#32) = true := by decide
theorem test_reset_while_busy :
    ends (step (writing busy17 0x0C 1#32)) (fun t => t == State.reset) = true := by decide
theorem test_reserved_word :
    ends (step (writing { d17 with cfg := ⟨64, 64, 0x1000⟩ } 0x1008 1#32))
      (fun t => t.p0 == ⟨0, 0⟩ && t.readWord 0x10 == 0x08#32) = true := by decide
theorem test_word_order :
    ends (step (writing State.reset 0x1104 1#32)) (fun t => t.p0 == ⟨0, 4294967296⟩) = true := by decide
theorem test_cfg_64 : State.readWord { d17 with cfg := ⟨64, 64, 0⟩ } 0x08 = 0x00400040#32 := by decide
theorem test_byte_lane : State.readByte { State.reset with dp := 270292550838977 } 0x0103 = 0x63#8 := by decide
theorem test_misaligned :
    (match step { State.reset with turns := [.hostRead 2 4] } with
      | .fault (.misaligned 2) => true
      | _ => false) = true := by decide

/-! ## Witnesses: each statement's hypotheses hold together somewhere -/

theorem prime_17 : Nat.Prime 17 := by norm_num

theorem witness_EncodeOfDecode : decode 0x30333000#32 = .ok (.padd .p3 .p3 .p3) := by decide

theorem witness_OpcodeTableAgrees :
    legalWord 0x30333000#32 = true ∧ (⟨0x30000000#32, 0xFFCCCFFF#32⟩ : OpcodeRow) ∈ opcodeRows ∧
    OpcodeRow.hit ⟨0x30000000#32, 0xFFCCCFFF#32⟩ 0x30333000#32 = true := by decide

theorem witness_IllegalWords :
    (pending d17 0xFFFFFFFF#32 []).status.busy = true ∧ (pending d17 0xFFFFFFFF#32 []).coreNext = true ∧
    illegalNumber (pending d17 0xFFFFFFFF#32 []).cmd.toNat := by
  refine ⟨rfl, rfl, ?_⟩
  show illegalNumber 4294967295
  simp [illegalNumber, selectorsUsed]

theorem witness_StepRunsPendingCommand :
    busy17.status.busy = true ∧ busy17.coreNext = true ∧ decode busy17.cmd = .ok (.pmul .p0 .p1) ∧
    decodeTableWord 32 0x40330000 = some (.pmul .p3 .p3) := by decide

theorem witness_MalformedAccess_well_formed :
    (reading d17 0x3FFC).turns.head? = some (.hostRead 0x3FFC 4) ∧ wordOffset 0x3FFC := by
  refine ⟨by decide, ?_⟩
  unfold wordOffset
  omega

theorem witness_MalformedAccess_malformed :
    (writing d17 0x4000 1#32).turns.head? = some (.hostWrite 0x4000 4 1#32) ∧
    ¬ ∃ off, wordOffset off ∧ 0x4000 = d17.cfg.base + off ∧ (4 : Nat) = 4 := by
  refine ⟨by decide, ?_⟩
  rintro ⟨off, ho, he, -⟩
  have h0 : d17.cfg.base = 0 := rfl
  unfold wordOffset at ho
  omega

theorem witness_PendingCommandCompletes :
    busy17.status.busy = true ∧ busy17.coreNext = true ∧
    (pending d17 0x40010000#32 [.core, .hardReset]).coreNext = true := by decide

theorem witness_ResetValues : { d17 with turns := [Turn.hardReset] }.turns.head? = some .hardReset := by decide

theorem witness_ControlWrite :
    writesNext (writing busy17 0x0C 0xFFFFFFFF#32) 0x0C 0xFFFFFFFF#32 ∧ (0xFFFFFFFF#32).getLsbD 0 = true ∧
    writesNext (writing busy17 0x0C 0xFFFFFFFE#32) 0x0C 0xFFFFFFFE#32 ∧ (0xFFFFFFFE#32).getLsbD 0 = false := by
  refine ⟨rfl, by decide, rfl, by decide⟩

theorem witness_ResetAbandonsCommand :
    (writing busy17 0x0C 1#32).nextResets = true ∧ (writing busy17 0x0C 1#32).status.busy = true ∧
    { State.resetOf d17.cfg with turns := (writing busy17 0x0C 1#32).turns.tail }.coreNext = true := by decide

theorem witness_HostReadReturnsWord :
    d17.cfg.wellFormed = true ∧ readsNext (reading d17 (DataReg.slot (.py .p3) + 4 * 63)) (DataReg.slot (.py .p3) + 4 * 63) ∧
    readsNext (reading d17 (DataReg.slot .dp + 4 * 15)) (DataReg.slot .dp + 4 * 15) ∧ 15 < DataReg.words d17.cfg .dp ∧
    readsNext (reading d17 0x20) 0x20 := by
  refine ⟨by decide, rfl, rfl, by decide, rfl⟩

theorem witness_ConstantRegisters : { d17 with cfg := ⟨2048, 2048, 0⟩ }.cfg.wellFormed = true := by decide

theorem witness_StatusRegisterFields : writesNext (writing d17 0x10 0xFFFFFFFF#32) 0x10 0xFFFFFFFF#32 := rfl

theorem witness_DataWordWrite_busy :
    busy17.cfg.wellFormed = true ∧ 15 < DataReg.words busy17.cfg .k ∧
    writesNext (writing busy17 (DataReg.slot .k + 4 * 15) 1#32) (DataReg.slot .k + 4 * 15) 1#32 ∧
    busy17.status.busy = true := by
  refine ⟨by decide, by decide, rfl, rfl⟩

theorem witness_DataWordWrite_locked :
    0 < DataReg.words d17.cfg .dgy ∧ writesNext (writing d17 (DataReg.slot .dgy + 4 * 0) 1#32) (DataReg.slot .dgy + 4 * 0) 1#32 ∧
    DataReg.dgy ∈ domainRegs ∧ d17.status.domv = true := by
  refine ⟨by decide, rfl, by decide, rfl⟩

theorem witness_DataWordWrite_accepted :
    15 < DataReg.words d17.cfg (.f .f3) ∧
    writesNext (writing d17 (DataReg.slot (.f .f3) + 4 * 15) 1#32) (DataReg.slot (.f .f3) + 4 * 15) 1#32 ∧
    ¬ ((writing d17 (DataReg.slot (.f .f3) + 4 * 15) 1#32).status.busy = true ∨
      (DataReg.f .f3 ∈ domainRegs ∧ d17.status.domv = true)) := by
  refine ⟨by decide, rfl, by decide⟩

theorem witness_DataWordWrite_control :
    writesNext (writing busy17 0x0C 1#32) 0x0C 1#32 ∧ (1#32).getLsbD 0 = true ∧
    writesNext (writing busy17 0x10 0x20#32) 0x10 0x20#32 := by
  refine ⟨rfl, by decide, rfl⟩

theorem witness_ValueIsSumOfWords :
    d17.cfg.wellFormed = true ∧ State.dataReg { d17 with k := 2 ^ 512 - 1 } .k < 2 ^ DataReg.width d17.cfg .k := by
  decide +kernel

/-- A state with the writes of `WR DP, 19` scheduled and one turn after them. -/
def scripted : State := { State.reset with turns := writeTurns State.reset.cfg (.data .dp) 19 ++ [.core] }

theorem witness_ScriptWriteStoresValue :
    scripted.cfg.wellFormed = true ∧ scripted.dataReg .dp < 2 ^ DataReg.width scripted.cfg .dp ∧
    19 < 2 ^ DataReg.width scripted.cfg .dp ∧ scripted.status.busy = false ∧
    (DataReg.dp ∈ domainRegs → scripted.status.domv = false) ∧
    scripted.turns = writeTurns scripted.cfg (.data .dp) 19 ++ [.core] := by
  decide +kernel

theorem witness_ReadOnlyRegistersIgnoreWrites :
    writesNext (writing d17 0x00 1#32) 0x00 1#32 ∧ writesNext (writing d17 0x04 1#32) 0x04 1#32 ∧
    writesNext (writing d17 0x08 1#32) 0x08 1#32 ∧ writesNext (writing d17 0x14 1#32) 0x14 1#32 ∧
    writesNext (writing d17 0x18 1#32) 0x18 1#32 ∧ writesNext (writing d17 0x1C 1#32) 0x1C 1#32 :=
  ⟨rfl, rfl, rfl, rfl, rfl, rfl⟩

theorem witness_ReservedWords_gap :
    wordOffset 0x24 ∧ 0x24 ∉ controlOffsets ∧
    (∀ (r : DataReg) (n : Nat), n < r.words d17.cfg → 0x24 ≠ r.slot + 4 * n) ∧
    writesNext (writing d17 0x24 1#32) 0x24 1#32 := by
  refine ⟨by unfold wordOffset; omega, by decide, ?_, rfl⟩
  intro r n _
  have : 0x100 ≤ r.slot := by rcases r with _ | _ | _ | _ | _ | _ | q | q | q <;> first | decide | (cases q <;> decide)
  omega

theorem witness_ReservedWords_slot : d17.cfg.wellFormed = true ∧ DataReg.words d17.cfg .k ≤ 16 ∧ 16 < 64 ∧
    DataReg.words d17.cfg .k ≤ 63 ∧ 63 < 64 := by decide

theorem witness_CommandRegister_accepted :
    writesNext (writing d17 0x20 0#32) 0x20 0#32 ∧ (writing d17 0x20 0#32).status.busy = false ∧
    (writing d17 0x20 0#32).status.fatal = false := ⟨rfl, rfl, rfl⟩

/-- A state in which a `DOMINIT` has failed. -/
def fatal15 : State :=
  { State.reset with
    dp := 15, db := 2, status := ⟨false, true, true, false, true, false⟩, errcode := some .invalidCurveParameter
    esticky := ⟨true, false, false, false, false⟩, cmd := 0x01000000#32 }

theorem witness_CommandRegister_ignored :
    writesNext (writing busy17 0x20 0#32) 0x20 0#32 ∧ (writing busy17 0x20 0#32).status.busy = true ∧
    writesNext (writing fatal15 0x20 0#32) 0x20 0#32 ∧ (writing fatal15 0x20 0#32).status.fatal = true :=
  ⟨rfl, rfl, rfl, rfl⟩

theorem witness_CommandRegister_changes :
    ∃ t, step (writing d17 0x20 0x31010000#32) = .next t ∧ decide (t.cmd ≠ d17.cmd) = true := ends_next (by decide)

theorem witness_CommandRegister_reset : ∃ t, step { d17 with turns := [.hardReset] } = .next t := ⟨_, rfl⟩

/-- `FINV F1, F0` pending with `F0 = 0`. -/
def failing : State := pending d17 0x20100000#32 []

theorem witness_ErrorEntry :
    failing.status.busy = true ∧ failing.coreNext = true ∧ ∃ t, step failing = .next t ∧ t.status.err = true :=
  ⟨rfl, rfl, ends_next (p := fun t => t.status.err) (by decide)⟩

theorem witness_ErrorsByCommand :
    (∃ t, exec (.finv .f1 .f0) d17 = .next t ∧ decide (t.errcode = some .noInverse) = true) ∧
    (∃ t, exec .dominit { State.reset with dp := 15 } = .next t ∧
      decide (t.errcode = some .invalidCurveParameter) = true) ∧
    Instr.needsDomain (.pldg .p0) = true ∧ State.reset.status.domv = false ∧ d17.status.domv = true ∧
    (pending d17 0x05000000#32 []).status.busy = true ∧ (pending d17 0x05000000#32 []).coreNext = true ∧
    decode (pending d17 0x05000000#32 []).cmd = .error .unassignedOpcode :=
  ⟨ends_next (by decide), ends_next (by decide), rfl, rfl, rfl, rfl, rfl, by decide⟩

theorem witness_FatalStopsCommands :
    (writing fatal15 0x20 0#32).status.fatal = true ∧ (writing fatal15 0x20 0#32).status.busy = false ∧
    (writing fatal15 0x20 0#32).nextResets = false ∧ (∃ t, step (writing fatal15 0x20 0#32) = .next t) ∧
    writesNext (writing fatal15 0x20 0#32) 0x20 0#32 ∧ { fatal15 with turns := [.hardReset] }.nextResets = true :=
  ⟨rfl, rfl, by decide, ⟨_, rfl⟩, rfl, rfl⟩

theorem witness_InvariantAtReset : Config.wellFormed ⟨2048, 32, 0x1000⟩ = true := by decide

theorem status_inv_d17 : StatusInv d17 := ⟨by decide, by decide, by decide, by decide⟩

theorem inv_d17 : Inv d17 where
  config := by decide
  in_range := by
    intro r
    rcases r with _ | _ | _ | _ | _ | _ | q | q | q <;> first | decide +kernel | (cases q <;> decide +kernel)
  status := status_inv_d17
  domain := fun _ => ⟨prime_17, by decide⟩
  recorded := by decide
  fatal_recorded := by decide

/-- The invariant holds at `State.reset`. -/
theorem inv_reset : Inv State.reset where
  config := by decide
  in_range := by
    intro r
    rcases r with _ | _ | _ | _ | _ | _ | q | q | q <;> first | decide +kernel | (cases q <;> decide +kernel)
  status := ⟨by decide, by decide, by decide, by decide⟩
  domain := by decide
  recorded := by decide
  fatal_recorded := by decide

theorem witness_InvariantKept : Inv d17 ∧ ∃ t, step d17 = .next t := ⟨inv_d17, ⟨_, rfl⟩⟩

theorem witness_StatusInvariantsKept : StatusInv d17 ∧ ∃ t, step d17 = .next t := ⟨status_inv_d17, ⟨_, rfl⟩⟩

theorem witness_DomainFrozenWhileValid :
    (∃ t, step (writing d17 0x0100 19#32) = .next t ∧ t.status.domv = true) ∧
    (writing d17 0x0100 19#32).status.domv = true ∧ (writing d17 0x0100 19#32).nextResets = false :=
  ⟨ends_next (p := fun t => t.status.domv) (by decide), rfl, by decide⟩

/-- `DOMINIT` pending with the modulus `n`. -/
def initialising (n : Nat) : State := pending { State.reset with dp := n, db := 2 } 0x01000000#32 []

theorem witness_DomainBitsRise_valid :
    ∃ t, step (initialising 17) = .next t ∧ (!(initialising 17).status.domv && t.status.domv) = true :=
  ends_next (by decide)

theorem witness_DomainBitsRise_fatal :
    ∃ t, step (initialising 15) = .next t ∧ (!(initialising 15).status.fatal && t.status.fatal) = true :=
  ends_next (by decide)

theorem witness_StickyErrorsOnlyGrow :
    (∃ t, step failing = .next t) ∧ failing.nextResets = false ∧
    (∃ t, step { fatal15 with turns := [.hardReset] } = .next t) ∧
    { fatal15 with turns := [.hardReset] }.nextResets = true := ⟨⟨_, rfl⟩, rfl, ⟨_, rfl⟩, rfl⟩

theorem witness_FlagsOwnedByCompares :
    (∃ t, step (pending d17 0x10011000#32 []) = .next t ∧ decide (t.flags ≠ d17.flags) = true) ∧
    (pending d17 0x10011000#32 []).nextResets = false := ⟨ends_next (by decide), rfl⟩

/-- A `PMUL` pending, a host write to its source before the core's turn. -/
def interfering : State := pending d17 0x40010000#32 [.hostWrite 0x1200 4 9#32, .core]

theorem witness_AccessWhileBusy :
    interfering.status.busy = true ∧ interfering.turns = .hostWrite 0x1200 4 9#32 :: .core :: [] ∧
    Turn.resets interfering.cfg (.hostWrite 0x1200 4 9#32) = false ∧
    ∃ t, step interfering = .next t ∧ t.status.wign = true :=
  ⟨rfl, rfl, by decide, ends_next (p := fun t => t.status.wign) (by decide)⟩

theorem witness_NopCompletes :
    writesNext { State.reset with turns := [.hostWrite 0x20 4 (encode .nop), .core] } 0x20 (encode .nop) ∧
    State.reset.status.busy = false ∧ State.reset.status.fatal = false ∧ State.reset.readWord 0x10 = 0#32 :=
  ⟨rfl, rfl, rfl, by decide⟩

theorem witness_DominitDecidesDomain_passes :
    { State.reset with dp := 17, db := 2 }.status.domv = false ∧ (2 ≤ 17 ∧ ∀ d, d ∣ 17 → d = 1 ∨ d = 17) ∧
    (2 : Nat) % 17 ≠ 0 := ⟨rfl, ⟨by decide, fun d h => (Nat.dvd_prime prime_17).mp h⟩, by decide⟩

theorem witness_DominitDecidesDomain_fails :
    State.reset.status.domv = false ∧
    ¬ ((2 ≤ State.reset.dp ∧ ∀ d, d ∣ State.reset.dp → d = 1 ∨ d = State.reset.dp) ∧ State.reset.db % State.reset.dp ≠ 0) := by
  refine ⟨rfl, fun h => ?_⟩
  exact absurd h.1.1 (by decide)

/-! In `d17` the domain is valid and in `State.reset` it is not: with the modulus 17 these meet the domain clauses of the
statements below. -/

theorem witness_PldgCopiesGenerator : d17.status.domv = true ∧ State.reset.status.domv = false := by decide

theorem witness_PnegNegates : d17.status.domv = true ∧ 0 < d17.dp ∧ State.reset.status.domv = false := by decide

theorem witness_FieldReduceAndNegate : d17.status.domv = true ∧ 0 < d17.dp ∧ State.reset.status.domv = false := by decide

theorem witness_PredReduces : d17.status.domv = true ∧ 0 < d17.dp ∧ State.reset.status.domv = false := by decide

theorem witness_FinvInverts :
    Nat.Prime d17.dp ∧ State.field { d17 with f0 := 18 } .f0 % d17.dp ≠ 0 ∧ State.field { d17 with f0 := 34 } .f0 % d17.dp = 0 :=
  ⟨prime_17, by decide, by decide⟩

theorem witness_InverseLaws :
    Nat.Prime 17 ∧ ((17 : Nat) : Int) ∣ -17 ∧ ¬ ((17 : Nat) : Int) ∣ 16 ∧ inverse 17 5 = .ok 7 ∧
    Nat.Prime 2 ∧ (3 : Int) % 2 = 1 ∧ (4 : Int) % 2 = 0 :=
  ⟨prime_17, by decide, by decide, by decide, by norm_num, by decide, by decide⟩

theorem witness_PdblDoubles :
    Nat.Prime d17.dp ∧ d17.point .p0 = ⟨0, 0⟩ ∧
    (State.point { d17 with p1 := ⟨5, 17⟩ } .p1 ≠ ⟨0, 0⟩ ∧ d17.dp ∣ 2 * (State.point { d17 with p1 := ⟨5, 17⟩ } .p1).y) ∧
    ¬ d17.dp ∣ 2 * (d17.point .p1).y := ⟨prime_17, by decide, by decide, by decide⟩

theorem witness_PaddAdds :
    Nat.Prime d17.dp ∧ d17.point .p1 = d17.point .p1 ∧
    ((⟨5, 1⟩ : Point).x = (⟨5, 18⟩ : Point).x ∧ (⟨5, 1⟩ : Point).y ≠ (⟨5, 18⟩ : Point).y) ∧
    (d17.point .p0 = ⟨0, 0⟩ ∧ (d17.point .p0).x ≠ (d17.point .p1).x) ∧
    ((⟨5, 1⟩ : Point).x ≠ (⟨22, 18⟩ : Point).x ∧ (⟨5, 1⟩ : Point).x % d17.dp = (⟨22, 18⟩ : Point).x % d17.dp) ∧
    (d17.point .p1 ≠ ⟨0, 0⟩ ∧ d17.point .p2 ≠ ⟨0, 0⟩ ∧ (d17.point .p1).x % d17.dp ≠ (d17.point .p2).x % d17.dp) :=
  ⟨prime_17, rfl, by decide, by decide, by decide, by decide⟩

theorem witness_PmulMultiplies :
    mul d17.dp d17.da d17.k (d17.point .p1) = .ok ⟨16, 13⟩ ∧
    mul d5.dp d5.da d5.k (d5.point .p1) = .error .noInverse ∧
    { d17 with k := 0 }.k = 0 ∧ d17.point .p0 = ⟨0, 0⟩ ∧
    ∃ t, exec (.pmul .p0 .p1) d17 = .next t ∧ t.status.done = true :=
  ⟨by decide, by decide, rfl, rfl, ends_next (p := fun t => t.status.done) (by decide)⟩

theorem witness_PmulCompletesWhenDoublingsDo :
    d17.status.domv = true ∧ Nat.Prime d17.dp ∧ (d17.point .p1).reduced d17.dp ∧
    doublings d17.dp d17.da (d17.point .p1) (Nat.size d17.k) = .ok ⟨13, 7⟩ := by
  refine ⟨rfl, prime_17, by unfold Point.reduced; decide, ?_⟩
  have h : Nat.size d17.k = 3 := by decide
  rw [h]
  decide

theorem witness_MulContracts :
    dbl 17 2 ⟨5, 1⟩ = .ok ⟨6, 3⟩ ∧ (⟨5, 1⟩ : Point).x ≠ 0 ∧ dbl 17 2 ⟨0, 6⟩ = .ok ⟨9, 1⟩ ∧ (⟨0, 6⟩ : Point).x = 0 ∧
    17 ∣ 2 * (⟨5, 17⟩ : Point).y ∧ (⟨5, 17⟩ : Point) ≠ ⟨0, 0⟩ := by decide

theorem witness_ReducedOperands :
    Nat.Prime 17 ∧ (⟨16, 4⟩ : Point).reduced 17 ∧ dbl 17 2 ⟨5, 1⟩ = .ok ⟨6, 3⟩ ∧ add 17 2 ⟨5, 1⟩ ⟨6, 3⟩ = .ok ⟨10, 6⟩ ∧
    mul 17 2 6 ⟨5, 1⟩ = .ok ⟨16, 13⟩ :=
  ⟨prime_17, by unfold Point.reduced; decide, by decide, by decide, by decide⟩

theorem witness_ExceptionalOperands : 0 < 17 ∧ 6 ≠ 0 ∧ 5 ≠ 0 ∧ 0 < 16 ∧ 16 < 17 := by decide

theorem witness_SubtractingUndoesAdding :
    Nat.Prime 17 ∧ 5 % 17 ≠ 6 % 17 ∧ 10 % 17 ≠ 5 % 17 ∧ (⟨5, 1⟩ : Point).negate 17 ≠ ⟨0, 0⟩ ∧
    add 17 2 ⟨5, 1⟩ ⟨6, 3⟩ = .ok ⟨10, 6⟩ := ⟨prime_17, by decide, by decide, by decide, by decide⟩


theorem witness_AddCommutes : Nat.Prime 17 := prime_17

/-- `(1, 1)` is a nonsingular point of the curve with `a = 2`, `b = 1` over the integers modulo 3. -/
theorem nonsingular_one : (curveOf 3 2 1).Nonsingular 1 1 := by
  rw [WeierstrassCurve.Affine.nonsingular_iff, WeierstrassCurve.Affine.equation_iff]
  simp only [curveOf]
  decide

theorem denotes_one : denotes ⟨1, 1⟩ (.some 1 1 nonsingular_one) :=
  ⟨by unfold Point.reduced; decide, by simp, by simp⟩

theorem witness_AddIsTheGroupLaw :
    3 ≠ 2 ∧ 1 % 3 ≠ 0 ∧ denotes ⟨1, 1⟩ (.some 1 1 nonsingular_one) ∧
    ¬ ((⟨1, 1⟩ : Point) = ⟨0, 0⟩ ∧ (⟨1, 1⟩ : Point).x = 0 ∧ (⟨1, 1⟩ : Point).y ≠ 0) ∧
    ¬ ((⟨1, 1⟩ : Point) = ⟨1, 1⟩ ∧ (⟨1, 1⟩ : Point).x ≠ 0 ∧ (⟨1, 1⟩ : Point).y = 0) :=
  ⟨by decide, by decide, denotes_one, by decide, by decide⟩

theorem witness_MulIsTheGroupMultiple :
    3 ≠ 2 ∧ 1 % 3 ≠ 0 ∧ denotes ⟨1, 1⟩ (.some 1 1 nonsingular_one) ∧
    ∀ j, j < Nat.size 1 → ∀ Q : Point,
      denotes Q ((2 ^ j) • WeierstrassCurve.Affine.Point.some 1 1 nonsingular_one) →
      Q = ⟨0, 0⟩ ∨ (Q.x ≠ 0 ∧ Q.y ≠ 0) := by
  refine ⟨by decide, by decide, denotes_one, ?_⟩
  intro j hj Q hQ
  have h0 : j = 0 := by
    have : Nat.size 1 = 1 := by decide
    omega
  subst h0
  rw [pow_zero, one_smul] at hQ
  obtain ⟨-, hx, hy⟩ := hQ
  refine .inr ⟨fun h => ?_, fun h => ?_⟩
  · rw [h] at hx
    exact absurd hx (by decide)
  · rw [h] at hy
    exact absurd hy (by decide)

theorem witness_FieldCommandsFrame :
    Instr.finv .f1 .f0 ∈ [Instr.fred .f1 .f0, .fneg .f1 .f0, .finv .f1 .f0] ∧
    (∃ t, exec (.finv .f1 .f0) { d17 with f0 := 5 } = .next t ∧ decide (t.f1 = 7) = true) ∧
    outside [.f .f1] 0x2003 := by
  refine ⟨by decide, ends_next (by decide), ?_⟩
  unfold outside
  decide

theorem witness_PointCommandsFrame :
    Instr.padd .p3 .p1 .p2 ∈
      [Instr.pldg .p3, .pneg .p3 .p1, .pred .p3 .p1, .padd .p3 .p1 .p2, .pdbl .p3 .p1, .pmul .p3 .p1] ∧
    (∃ t, exec (.padd .p3 .p1 .p2) d17 = .next t ∧ decide (t.p3 = ⟨10, 6⟩) = true) ∧
    outside [.px .p3, .py .p3] 0x15FF := by
  refine ⟨by decide, ends_next (by decide), ?_⟩
  unfold outside
  decide

theorem witness_SystemAndCompareFrame :
    (∃ t, exec (.fcmp .f0 .f1) d17 = .next t ∧ decide (t.flags.feq = true) = true) ∧
    (∃ t, exec .dominit { State.reset with dp := 17, db := 2 } = .next t ∧ decide (t.status.domv = true) = true) ∧
    outside [] 0x20 ∧ ¬ (0x1C ≤ 0x20 ∧ 0x20 < 0x20) := by
  refine ⟨ends_next (by decide), ends_next (by decide), ?_, by omega⟩
  unfold outside
  simp

end Sys2Proof.Tests
end

section
/-! SUPPORT. The state family: how the control registers read and take writes, which turns reset the block, and the one
view of a step (`stepKind_of_step`) that the statements about `CMD`, `STATUS` and `ESTICKY` rest on. -/

namespace Sys2Proof.Machine

/-! ## The state with its turn taken -/

@[simp] theorem afterTurn_cfg (s : State) : (afterTurn s).cfg = s.cfg := rfl
@[simp] theorem afterTurn_status (s : State) : (afterTurn s).status = s.status := rfl
@[simp] theorem afterTurn_errcode (s : State) : (afterTurn s).errcode = s.errcode := rfl
@[simp] theorem afterTurn_esticky (s : State) : (afterTurn s).esticky = s.esticky := rfl
@[simp] theorem afterTurn_cmd (s : State) : (afterTurn s).cmd = s.cmd := rfl

theorem afterTurn_of_cons {s : State} {t : Turn} {rest : List Turn} (h : s.turns = t :: rest) :
    afterTurn s = { s with turns := rest } := by
  simp [afterTurn, h]

theorem coreNext_of_writesNext {s : State} {off : Nat} {v : Word} (h : writesNext s off v) : s.coreNext = false := by
  obtain ⟨rest, ht⟩ := List.head?_eq_some_iff.mp h
  simp [State.coreNext, ht]

theorem coreNext_of_readsNext {s : State} {off : Nat} (h : readsNext s off) : s.coreNext = false := by
  obtain ⟨rest, ht⟩ := List.head?_eq_some_iff.mp h
  simp [State.coreNext, ht]

/-! ## The control registers -/

/-- A word of the first block of the window reads as its control register. -/
theorem State.readWord_control (s : State) {off : Nat} (h : off < 0x100) :
    s.readWord off = s.readLoc (controlReg off) := by
  rw [State.readWord, locate_control s.cfg off h]

theorem step_of_writesNext {s : State} {off : Nat} {v : Word} (h : writesNext s off v) (hw : off < windowBytes)
    (ha : off % 4 = 0) : step s = .next ((afterTurn s).writeLoc (locate s.cfg off) v) := by
  obtain ⟨rest, ht⟩ := List.head?_eq_some_iff.mp h
  rw [step_hostWrite ht hw ha, afterTurn_of_cons ht]

/-- A write to the first block of the window goes to its control register. -/
theorem step_of_writesNext_control {s : State} {off : Nat} {v : Word} (h : writesNext s off v) (hc : off < 0x100)
    (ha : off % 4 = 0) : step s = .next ((afterTurn s).writeLoc (controlReg off) v) := by
  have hw : off < windowBytes := hc.trans (by decide)
  rw [step_of_writesNext h hw ha, locate_control s.cfg off hc]

/-- A word of the window is a control register, a word of a data register, or reserved. -/
theorem locate_cases (c : Config) (off : Nat) :
    locate c off = controlReg off ∨ (∃ r n, locate c off = .data r n) ∨ locate c off = .reserved := by
  unfold locate
  split
  · split
    · exact .inr (.inl ⟨_, _, rfl⟩)
    · exact .inr (.inr rfl)
  · exact .inl rfl

theorem controlReg_eq_of_locate {c : Config} {off : Nat} {l : Loc} (h : locate c off = l)
    (hdata : ∀ r n, l ≠ .data r n) (hres : l ≠ .reserved) : controlReg off = l := by
  subst h
  rcases locate_cases c off with hl | ⟨r, n, hl⟩ | hl
  · exact hl.symm
  · exact absurd hl (hdata r n)
  · exact absurd hl hres

theorem locate_eq_ctrl {c : Config} {off : Nat} (h : locate c off = .ctrl) : off = 0x0C := by
  have hl : controlReg off = .ctrl := controlReg_eq_of_locate h (by simp) (by simp)
  unfold controlReg at hl
  split at hl <;> simp at hl ⊢

theorem locate_eq_status {c : Config} {off : Nat} (h : locate c off = .status) : off = 0x10 := by
  have hl : controlReg off = .status := controlReg_eq_of_locate h (by simp) (by simp)
  unfold controlReg at hl
  split at hl <;> simp at hl ⊢

theorem locate_eq_cmd {c : Config} {off : Nat} (h : locate c off = .cmd) : off = 0x20 := by
  have hl : controlReg off = .cmd := controlReg_eq_of_locate h (by simp) (by simp)
  unfold controlReg at hl
  split at hl <;> simp at hl ⊢

theorem State.writeCtrl_of_reset {s : State} {v : Word} (h : v.getLsbD 0 = true) : s.writeCtrl v = s.resetBlock :=
  if_pos h

theorem State.writeCtrl_of_not_reset {s : State} {v : Word} (h : v.getLsbD 0 = false) : s.writeCtrl v = s :=
  if_neg (by rw [h]; decide)

theorem State.writeCmd_of_ready {s : State} {v : Word} (hb : s.status.busy = false) (hf : s.status.fatal = false) :
    s.writeCmd v = s.issue v := by
  simp [State.writeCmd, hb, hf]

theorem State.writeCmd_of_blocked {s : State} {v : Word} (h : s.status.busy = true ∨ s.status.fatal = true) :
    s.writeCmd v = s.markIgnored := by
  simp [State.writeCmd, h]

/-! ## Resets -/

/-- The turns that reset: the reset input, and a write to `CTRL` with bit 0 = 1 (rules R200, R201). -/
theorem State.nextResets_iff {s : State} :
    s.nextResets = true ↔
      s.turns.head? = some .hardReset ∨ ∃ v, writesNext s 0x0C v ∧ v.getLsbD 0 = true := by
  unfold State.nextResets writesNext
  rcases s.turns with _ | ⟨t, rest⟩
  · simp
  · cases t <;> simp [Turn.resets]

theorem step_of_hardReset {s : State} (h : s.turns.head? = some .hardReset) :
    step s = .next (afterTurn s).resetBlock := by
  obtain ⟨rest, ht⟩ := List.head?_eq_some_iff.mp h
  rw [step_cons ht, afterTurn_of_cons ht]
  rfl

/-- Hard and soft reset are one and the same step (rule R201). -/
theorem step_of_nextResets {s : State} (h : s.nextResets = true) : step s = .next (afterTurn s).resetBlock := by
  rcases State.nextResets_iff.mp h with hr | ⟨v, hw, hv⟩
  · exact step_of_hardReset hr
  · rw [step_of_writesNext_control hw (by decide) (by decide)]
    exact congrArg _ (State.writeCtrl_of_reset hv)

/-! ## What commits and errors leave alone -/

theorem Effect.cmd_eq {s u : State} {i : Instr} (h : Effect s i u) : u.cmd = s.cmd := by
  cases h <;> simp

theorem Effect.esticky_eq {s u : State} {i : Instr} (h : Effect s i u) : u.esticky = s.esticky := by
  cases h <;> simp

theorem Effect.fatal_eq {s u : State} {i : Instr} (h : Effect s i u) : u.status.fatal = s.status.fatal := by
  cases h <;> simp

@[simp] theorem State.setDataReg_status (s : State) (r : DataReg) (v : Nat) :
    (s.setDataReg r v).status = s.status := by
  cases r <;> simp [State.setDataReg]

@[simp] theorem State.setDataReg_errcode (s : State) (r : DataReg) (v : Nat) :
    (s.setDataReg r v).errcode = s.errcode := by
  cases r <;> simp [State.setDataReg]

@[simp] theorem State.setDataReg_esticky (s : State) (r : DataReg) (v : Nat) :
    (s.setDataReg r v).esticky = s.esticky := by
  cases r <;> simp [State.setDataReg]

@[simp] theorem State.setDataReg_cmd (s : State) (r : DataReg) (v : Nat) :
    (s.setDataReg r v).cmd = s.cmd := by
  cases r <;> simp [State.setDataReg]

/-! ## The view of a step -/

/-- Why a completion ends in an error: the pending word is illegal, or its command raises the error. -/
def completionRaises (s : State) (e : ErrorCode) : Prop :=
  (e = .illegalCommand ∧ ∃ x, decode s.cmd = .error x) ∨ ∃ i, decode s.cmd = .ok i ∧ Raises s i e

/-- Everything a step can do to the block, from the state `s` to the state `t`: `StepCase` with a completion split into
its two outcomes and a host write into what it does, soft and hard reset in one. -/
inductive StepKind (s t : State) : Prop where
  | reset : s.nextResets = true → t = (afterTurn s).resetBlock → StepKind s t
  | success (i u) : s.coreNext = true → s.status.busy = true → decode s.cmd = .ok i → Effect (afterTurn s) i u →
      t = u.succeed → StepKind s t
  | error (e) : s.coreNext = true → s.status.busy = true → completionRaises (afterTurn s) e →
      t = (afterTurn s).takeError e → StepKind s t
  | idle : s.coreNext = true → s.status.busy = false → t = afterTurn s → StepKind s t
  | read (off) : readsNext s off → t = { afterTurn s with rdata := some (s.readWord off) } → StepKind s t
  | issue (v) : writesNext s 0x20 v → s.status.busy = false → s.status.fatal = false → t = (afterTurn s).issue v →
      StepKind s t
  | clear (v) : writesNext s 0x10 v → t = (afterTurn s).clearStatus v → StepKind s t
  | data (off v r n) : writesNext s off v → locate s.cfg off = .data r n → s.status.busy = false →
      (r.isDomain = true → s.status.domv = false) →
      t = (afterTurn s).setDataReg r (replaceWord ((afterTurn s).dataReg r) n v) → StepKind s t
  | ignored (off v) : writesNext s off v → t = (afterTurn s).markIgnored → StepKind s t
  | nothing (off v) : writesNext s off v → t = afterTurn s → StepKind s t

theorem stepKind_of_exec {s t : State} {i : Instr} (hc : s.coreNext = true) (hb : s.status.busy = true)
    (hd : decode s.cmd = .ok i) (h : exec i (afterTurn s) = .next t) : StepKind s t := by
  rcases exec_next_cases i (afterTurn s) with ⟨u, heff, hu⟩ | ⟨e, hraise, he⟩
  · rw [hu] at h
    cases h
    exact .success i u hc hb hd heff rfl
  · rw [he] at h
    cases h
    exact .error e hc hb (.inr ⟨i, hd, hraise⟩) rfl

theorem stepKind_of_write {s t : State} {off : Nat} {v : Word} (h : writesNext s off v)
    (hw : WriteCase (afterTurn s) (locate s.cfg off) v t) : StepKind s t := by
  cases hw with
  | reset hl hv ht =>
    obtain rfl := locate_eq_ctrl hl
    exact .reset (State.nextResets_iff.mpr (.inr ⟨v, h, hv⟩)) ht
  | clear hl ht =>
    obtain rfl := locate_eq_status hl
    exact .clear v h ht
  | issue hl hb hf ht =>
    obtain rfl := locate_eq_cmd hl
    exact .issue v h hb hf ht
  | data r n hl hb hd ht => exact .data off v r n h hl hb hd ht
  | ignored ht => exact .ignored off v h ht
  | nothing ht => exact .nothing off v h ht

theorem stepKind_of_step {s t : State} (h : step s = .next t) : StepKind s t := by
  cases step_cases h with
  | idle hc hb ht => exact .idle hc hb ht
  | illegal hc hb hx ht => exact .error .illegalCommand hc hb (.inl ⟨rfl, hx⟩) ht
  | command i hc hb hd he => exact stepKind_of_exec hc hb hd he
  | hardReset rest hs ht =>
    have hr : s.turns.head? = some .hardReset := by simp [hs]
    exact .reset (State.nextResets_iff.mpr (.inl hr)) (by rw [ht, afterTurn_of_cons hs])
  | hostRead off rest hs hw ha ht =>
    have hr : readsNext s off := by simp [readsNext, hs]
    exact .read off hr (by rw [ht, afterTurn_of_cons hs])
  | hostWrite off rest v hs hw ha ht =>
    have hr : writesNext s off v := by simp [writesNext, hs]
    rw [← afterTurn_of_cons hs] at ht
    exact stepKind_of_write hr (ht ▸ writeLoc_cases _ _ _)

/-! ## `CMD` -/

/-- Only a reset and an accepted write change `CMD` (rule R39). -/
theorem StepKind.cmd_cases {s t : State} (h : StepKind s t) :
    t.cmd = s.cmd ∨ s.nextResets = true ∨
      (writesNext s 0x20 t.cmd ∧ s.status.busy = false ∧ s.status.fatal = false) := by
  cases h with
  | reset hr ht => exact .inr (.inl hr)
  | issue v hw hb hf ht => exact .inr (.inr ⟨by simpa [ht] using hw, hb, hf⟩)
  | success i u hc hb hd heff ht => exact .inl (by simp [ht, heff.cmd_eq])
  | error e hc hb hx ht => exact .inl (by simp [ht])
  | idle hc hb ht => exact .inl (by simp [ht])
  | read off hr ht => exact .inl (by simp [ht])
  | clear v hw ht => exact .inl (by simp [ht])
  | data off v r n hw hl hb hd ht => exact .inl (by simp [ht])
  | ignored off v hw ht => exact .inl (by simp [ht])
  | nothing off v hw ht => exact .inl (by simp [ht])

/-! ## The invariants of `STATUS` (rule R35) -/

/-- The invariants speak of `STATUS` and `ERRCODE` only. -/
theorem StatusInv.congr {s t : State} (h : StatusInv s) (hs : t.status = s.status) (he : t.errcode = s.errcode) :
    StatusInv t := by
  obtain ⟨hvf, hbf, hbd, herr⟩ := h
  exact ⟨by rwa [hs], by rwa [hs], by rwa [hs], by rwa [hs, he]⟩

theorem StatusInv.of_status_zero {s : State} (h : s.status = ⟨false, false, false, false, false, false⟩) :
    StatusInv s := by
  constructor <;> simp [h]

theorem StatusInv.issue {s : State} (v : Word) (hf : s.status.fatal = false) : StatusInv (s.issue v) := by
  constructor <;> simp [hf]

theorem StatusInv.succeed {s : State} (hf : s.status.fatal = false) : StatusInv s.succeed := by
  constructor <;> simp [hf]

/-- An error keeps the invariants when the one error that sets `FATAL` finds `DOMV = 0`. -/
theorem StatusInv.takeError {s : State} {e : ErrorCode} (hf : s.status.fatal = false)
    (he : e = .invalidCurveParameter → s.status.domv = false) : StatusInv (s.takeError e) := by
  constructor
  case not_valid_and_fatal =>
    rintro ⟨hv, hx⟩
    have hcode : e = .invalidCurveParameter := by simpa [hf] using hx
    simp [he hcode] at hv
  all_goals simp

theorem StatusInv.clearStatus {s : State} (v : Word) (h : StatusInv s) : StatusInv (s.clearStatus v) := by
  obtain ⟨hvf, hbf, hbd, herr⟩ := h
  constructor
  case not_valid_and_fatal => exact hvf
  case busy_not_fatal => exact hbf
  case busy_not_done =>
    intro hb
    obtain ⟨hd, he⟩ := hbd hb
    simp [hd, he]
  case err_has_code =>
    intro he
    simp only [State.clearStatus_status, Bool.and_eq_true] at he
    exact herr he.1

theorem StatusInv.markIgnored {s : State} (h : StatusInv s) : StatusInv s.markIgnored := by
  obtain ⟨hvf, hbf, hbd, herr⟩ := h
  exact ⟨hvf, hbf, hbd, herr⟩

/-- `InvalidCurveParameter` is raised with `DOMV = 0` only (rule R181). -/
theorem domv_of_completionRaises {s : State} (h : completionRaises s .invalidCurveParameter) :
    s.status.domv = false := by
  rcases h with ⟨he, -⟩ | ⟨i, -, hr⟩
  · cases he
  · cases hr with
    | invalidCurve hd _ => exact hd

theorem StatusInv.step {s t : State} (h : StatusInv s) (hk : StepKind s t) : StatusInv t := by
  have hs : StatusInv (afterTurn s) := h.congr rfl rfl
  cases hk with
  | reset hr ht => exact ht ▸ .of_status_zero rfl
  | success i u hc hb hd heff ht =>
    have hf : u.status.fatal = false := heff.fatal_eq.trans (h.busy_not_fatal hb)
    exact ht ▸ .succeed hf
  | error e hc hb hx ht =>
    exact ht ▸ .takeError (h.busy_not_fatal hb) (fun he => domv_of_completionRaises (he ▸ hx))
  | idle hc hb ht => exact ht ▸ hs
  | read off hr ht => exact ht ▸ h.congr rfl rfl
  | issue v hw hb hf ht => exact ht ▸ .issue v hf
  | clear v hw ht => exact ht ▸ hs.clearStatus v
  | data off v r n hw hl hb hd ht => exact ht ▸ hs.congr (State.setDataReg_status ..) (State.setDataReg_errcode ..)
  | ignored off v hw ht => exact ht ▸ hs.markIgnored
  | nothing off v hw ht => exact ht ▸ hs

/-! ## `ESTICKY` -/

theorem Esticky.bit_record (t : Esticky) (c e : ErrorCode) :
    (t.record c).bit e = true ↔ t.bit e = true ∨ c = e := by
  cases c <;> cases e <;> simp [Esticky.record, Esticky.bit]

@[simp] theorem Esticky.bit_zero (e : ErrorCode) : (⟨false, false, false, false, false⟩ : Esticky).bit e = false := by
  cases e <;> rfl

theorem bitAt_getLsbD {k : Nat} (hk : k < 32) (b : Bool) (n : Nat) :
    (bitAt k b).getLsbD n = true ↔ k = n ∧ b = true := by
  cases b
  · simp [bitAt]
  · simp [bitAt]
    omega

/-- Bit `n` of `ESTICKY` stands for the error of code `n` (rule R37). -/
theorem Esticky.word_getLsbD (t : Esticky) (n : Nat) :
    t.word.getLsbD n = true ↔ ∃ e : ErrorCode, e.code = n ∧ t.bit e = true := by
  simp only [Esticky.word, BitVec.getLsbD_or, Bool.or_eq_true, bitAt_getLsbD (by decide : 1 < 32),
    bitAt_getLsbD (by decide : 2 < 32), bitAt_getLsbD (by decide : 3 < 32), bitAt_getLsbD (by decide : 4 < 32),
    bitAt_getLsbD (by decide : 5 < 32)]
  constructor
  · rintro ((((h | h) | h) | h) | h)
    · exact ⟨.invalidCurveParameter, h⟩
    · exact ⟨.noInverse, h⟩
    · exact ⟨.illegalCommand, h⟩
    · exact ⟨.domainNotValid, h⟩
    · exact ⟨.domainLocked, h⟩
  · rintro ⟨e, h⟩
    cases e <;> simp_all [ErrorCode.code, Esticky.bit]

/-- The errors a step that is no reset records: the one a completion ended in, and no other. -/
theorem StepKind.esticky_bit {s t : State} (h : StepKind s t) (hn : s.nextResets = false) (e : ErrorCode) :
    t.esticky.bit e = true ↔
      s.esticky.bit e = true ∨ (s.status.busy = true ∧ s.coreNext = true ∧ t.errcode = some e) := by
  cases h with
  | reset hr ht => simp [hn] at hr
  | success i u hc hb hd heff ht => simp [ht, heff.esticky_eq]
  | error c hc hb hx ht => simp [ht, hc, hb, Esticky.bit_record]
  | idle hc hb ht => simp [ht, hb]
  | read off hr ht => simp [ht, coreNext_of_readsNext hr]
  | issue v hw hb hf ht => simp [ht, hb]
  | clear v hw ht => simp [ht, coreNext_of_writesNext hw]
  | data off v r n hw hl hb hd ht => simp [ht, hb]
  | ignored off v hw ht => simp [ht, coreNext_of_writesNext hw]
  | nothing off v hw ht => simp [ht, coreNext_of_writesNext hw]

/-! ## `CFG` -/

/-- Rule R32: well formed widths fit the two halves of `CFG`. -/
theorem Config.word_toNat {c : Config} (h : c.wellFormed = true) : (Config.word c).toNat = c.kw * 65536 + c.w := by
  simp only [Config.wellFormed, Bool.and_eq_true, decide_eq_true_eq, beq_iff_eq] at h
  rw [Config.word, BitVec.toNat_ofNat, Nat.mod_eq_of_lt (by omega)]

/-! ## The statements -/

/-- Settles O21: a write to `CMD` is `writeCmd`, and of the kinds of a step only a reset and an issue touch `CMD`. -/
theorem commandRegister : Obligations.CommandRegister := by
  unfold Obligations.CommandRegister
  refine ⟨?_, ?_, ?_, ?_, ?_⟩
  · intro s v hw hb hf
    rw [step_of_writesNext_control hw (by decide) (by decide)]
    exact congrArg _ (State.writeCmd_of_ready hb hf)
  · intro s v hw hblocked
    rw [step_of_writesNext_control hw (by decide) (by decide)]
    exact congrArg _ (State.writeCmd_of_blocked hblocked)
  · intro s
    exact s.readWord_control (by decide)
  · intro s t hr h
    rw [step_of_hardReset hr] at h
    cases h
    exact State.readWord_control _ (by decide)
  · intro s t h hne
    exact (stepKind_of_step h).cmd_cases.resolve_left hne

/-- Settles O27: every kind of step keeps the four invariants, and they hold with `STATUS` 0. -/
theorem statusInvariantsKept : Obligations.StatusInvariantsKept := by
  unfold Obligations.StatusInvariantsKept
  refine ⟨?_, ?_⟩
  · intro s t h hstep
    exact h.step (stepKind_of_step hstep)
  · intro c ts
    exact .of_status_zero rfl

/-- Settles O30: of the kinds of a step only an error records a bit and only a reset clears one. -/
theorem stickyErrorsOnlyGrow : Obligations.StickyErrorsOnlyGrow := by
  unfold Obligations.StickyErrorsOnlyGrow
  refine ⟨?_, ?_, ?_⟩
  · intro s t e h hn
    exact (stepKind_of_step h).esticky_bit hn e
  · intro s t e h hr
    rw [step_of_nextResets hr] at h
    cases h
    exact Esticky.bit_zero e
  · intro s n
    rw [s.readWord_control (by decide)]
    exact s.esticky.word_getLsbD n

/-- Settles O11: both resets are `step_of_nextResets`. -/
theorem controlWrite : Obligations.ControlWrite := by
  unfold Obligations.ControlWrite
  refine ⟨?_, ?_, ?_⟩
  · intro s v hw hv
    have hsoft : step s = .next (afterTurn s).resetBlock :=
      step_of_nextResets (State.nextResets_iff.mpr (.inr ⟨v, hw, hv⟩))
    have hhard : step { s with turns := .hardReset :: s.turns.tail } = .next (afterTurn s).resetBlock :=
      step_of_hardReset rfl
    refine ⟨hsoft.trans hhard.symm, _, hsoft, rfl, ?_, ?_⟩
    · intro r
      cases r <;> rfl
    · intro r
      cases r <;> rfl
  · intro s v hw hv
    rw [step_of_writesNext_control hw (by decide) (by decide)]
    exact congrArg _ (State.writeCtrl_of_not_reset hv)
  · intro s
    exact s.readWord_control (by decide)

/-- Settles O14: `ID` and `VERSION` hold nothing of the state, `CFG` the two widths. -/
theorem constantRegisters : Obligations.ConstantRegisters := by
  unfold Obligations.ConstantRegisters
  refine ⟨?_, ?_, ?_⟩
  · intro s
    exact ⟨s.readWord_control (by decide), s.readWord_control (by decide)⟩
  · intro s hwf
    have hread : (s.readWord 0x08).toNat = s.cfg.kw * 65536 + s.cfg.w := by
      rw [s.readWord_control (by decide)]
      exact Config.word_toNat hwf
    have hbound : s.cfg.w < 65536 := by
      simp only [Config.wellFormed, Bool.and_eq_true, decide_eq_true_eq] at hwf
      omega
    omega
  · exact State.reset.readWord_control (by decide)

/-- Settles O19: the targets of the six offsets take no write. -/
theorem readOnlyRegistersIgnoreWrites : Obligations.ReadOnlyRegistersIgnoreWrites := by
  unfold Obligations.ReadOnlyRegistersIgnoreWrites
  intro s off v hoff hw
  simp only [List.mem_cons, List.not_mem_nil, or_false] at hoff
  rw [step_of_writesNext_control hw (by omega) (by omega)]
  rcases hoff with rfl | rfl | rfl | rfl | rfl | rfl <;> rfl

end Sys2Proof.Machine
end

section
/-! SUPPORT. The memory family: which words of the window are a data register's and which are reserved, and what a write
to a data word does (spec/20_memory.md rules R62, R66, R67). -/

namespace Sys2Proof.Machine

/-! ## The map of the window, from the target back to the offset -/

theorem lt_of_mem_controlOffsets {off : Nat} (h : off ∈ controlOffsets) : off < 0x100 := by
  simp only [controlOffsets, List.mem_cons, List.not_mem_nil, or_false] at h
  omega

theorem controlReg_of_not_mem {off : Nat} (h : off ∉ controlOffsets) : controlReg off = .reserved := by
  unfold controlReg
  split
  case h_10 => rfl
  all_goals exact absurd h (by decide)

/-- A word of a slot is an aligned offset of the window. -/
theorem DataReg.wordOffset_slot (r : DataReg) {n : Nat} (hn : n < 64) : wordOffset (r.slot + 4 * n) := by
  have hmod := r.slot_mod
  obtain ⟨-, htop⟩ := r.slot_bounds
  simp only [windowBytes] at htop
  exact ⟨by omega, by omega⟩

theorem locate_slot_of_lt {c : Config} (hwf : c.wellFormed = true) {r : DataReg} {n : Nat} (hn : n < r.words c) :
    locate c (r.slot + 4 * n) = .data r n := by
  rw [locate_slot c r n (hn.trans_le (r.words_le c hwf)), if_pos hn]

theorem locate_slot_of_le {c : Config} {r : DataReg} {n : Nat} (hle : r.words c ≤ n) (hn : n < 64) :
    locate c (r.slot + 4 * n) = .reserved := by
  rw [locate_slot c r n hn, if_neg hle.not_gt]

/-- An aligned offset that holds a data word is that word's place in its slot. -/
theorem eq_slot_of_locate {c : Config} {off : Nat} {r : DataReg} {n : Nat} (ha : off % 4 = 0)
    (h : locate c off = .data r n) : n < r.words c ∧ off = r.slot + 4 * n := by
  obtain ⟨hn, hlow, htop, hindex⟩ := locate_eq_data h
  have hmod := r.slot_mod
  simp only [slotBytes] at hindex
  exact ⟨hn, by omega⟩

/-- Rule R67: an aligned word that is no control register and no data word is reserved. -/
theorem locate_eq_reserved {c : Config} {off : Nat} (ha : off % 4 = 0) (hcontrol : off ∉ controlOffsets)
    (hdata : ∀ (r : DataReg) (n : Nat), n < r.words c → off ≠ r.slot + 4 * n) : locate c off = .reserved := by
  rcases locate_cases c off with hl | ⟨r, n, hl⟩ | hl
  · exact hl.trans (controlReg_of_not_mem hcontrol)
  · obtain ⟨hn, hoff⟩ := eq_slot_of_locate ha hl
    exact absurd hoff (hdata r n hn)
  · exact hl

/-! ## A write to a data word -/

@[simp] theorem afterTurn_dataReg (s : State) (r : DataReg) : (afterTurn s).dataReg r = s.dataReg r := rfl

@[simp] theorem State.resetBlock_dataReg (s : State) (r : DataReg) : s.resetBlock.dataReg r = 0 := by
  rcases r with _ | _ | _ | _ | _ | _ | q | q | q
  case px | py | f => cases q <;> rfl
  all_goals rfl

theorem DataReg.isDomain_iff {r : DataReg} : r.isDomain = true ↔ r ∈ domainRegs := by
  cases r <;> simp [DataReg.isDomain, domainRegs]

/-- Rule R66: when a write to a word of `r` is ignored. -/
def ignoresWrite (s : State) (r : DataReg) : Prop :=
  s.status.busy = true ∨ (r ∈ domainRegs ∧ s.status.domv = true)

theorem ignoresWrite_iff {s : State} {r : DataReg} :
    ignoresWrite s r ↔ (s.status.busy || (r.isDomain && s.status.domv)) = true := by
  simp [ignoresWrite, DataReg.isDomain_iff]

theorem State.writeData_of_ignored {s : State} {r : DataReg} {n : Nat} {v : Word} (h : ignoresWrite s r) :
    s.writeData r n v = s.markIgnored :=
  if_pos (ignoresWrite_iff.mp h)

theorem State.writeData_of_accepted {s : State} {r : DataReg} {n : Nat} {v : Word} (h : ¬ ignoresWrite s r) :
    s.writeData r n v = s.setDataReg r (replaceWord (s.dataReg r) n v) :=
  if_neg (mt ignoresWrite_iff.mpr h)

theorem step_of_writesNext_data {s : State} {r : DataReg} {n : Nat} {v : Word} (hwf : s.cfg.wellFormed = true)
    (hn : n < r.words s.cfg) (h : writesNext s (r.slot + 4 * n) v) :
    step s = .next ((afterTurn s).writeData r n v) := by
  obtain ⟨ha, hw⟩ := r.wordOffset_slot (hn.trans_le (r.words_le s.cfg hwf))
  rw [step_of_writesNext h hw ha, locate_slot_of_lt hwf hn]
  rfl

/-! ## The statements -/

/-- Settles O16: a write to a data word is `writeData`, one to `CTRL` a reset, one to `STATUS` is `clearStatus`. -/
theorem dataWordWrite : Obligations.DataWordWrite := by
  unfold Obligations.DataWordWrite
  refine ⟨?_, ?_, ?_⟩
  · intro s r n v hwf hn hw
    rw [step_of_writesNext_data hwf hn hw]
    refine ⟨?_, ?_⟩
    · intro hignored
      exact congrArg _ (State.writeData_of_ignored hignored)
    · intro haccepted
      exact ⟨replaceWord (s.dataReg r) n v, congrArg _ (State.writeData_of_accepted haccepted),
        wordOf_replaceWord_same .., fun m hm => wordOf_replaceWord_of_ne _ _ _ _ hm⟩
  · intro s v hw hv
    have hreset : s.nextResets = true := State.nextResets_iff.mpr (.inr ⟨v, hw, hv⟩)
    exact ⟨_, step_of_nextResets hreset, rfl, State.resetBlock_dataReg _⟩
  · intro s v hw
    have hclear : step s = .next ((afterTurn s).clearStatus v) :=
      step_of_writesNext_control hw (by decide) (by decide)
    exact ⟨_, hclear, by simp, by simp, by simp⟩

/-- Settles O20: such a word is located as reserved, and `locate` never gives a reserved word to a register. -/
theorem reservedWords : Obligations.ReservedWords := by
  unfold Obligations.ReservedWords
  refine ⟨?_, ?_⟩
  · intro s off ⟨ha, hw⟩ hcontrol hdata
    have hres : locate s.cfg off = .reserved := locate_eq_reserved ha hcontrol hdata
    refine ⟨by rw [State.readWord, hres]; rfl, ?_⟩
    intro v hv
    rw [step_of_writesNext hv hw ha, hres]
    rfl
  · intro s r n hwf hle hn
    have hres : locate s.cfg (r.slot + 4 * n) = .reserved := locate_slot_of_le hle hn
    refine ⟨r.wordOffset_slot hn, ?_, ?_⟩
    · intro hcontrol
      have hlow := lt_of_mem_controlOffsets hcontrol
      obtain ⟨hslot, -⟩ := r.slot_bounds
      omega
    · intro q m hm heq
      rw [heq, locate_slot_of_lt hwf hm] at hres
      cases hres

end Sys2Proof.Machine
end

section
/-! SUPPORT. The encoding family: the number of a command word (spec/30_encoding.md rule R98), and which words the decoder
refuses (rule R94), shape by shape. -/

namespace Sys2Proof

/-! ## The number of a command word -/

@[simp] theorem PReg.toNat_selector (r : PReg) : r.selector.toNat = r.number := by
  cases r <;> rfl

@[simp] theorem FReg.toNat_selector (r : FReg) : r.selector.toNat = r.number := by
  cases r <;> rfl

theorem encode_toNat (i : Instr) :
    (encode i).toNat = i.fields.op.toNat * 2 ^ 24 + i.fields.rd.toNat * 2 ^ 20 + i.fields.ra.toNat * 2 ^ 16 +
      i.fields.rb.toNat * 2 ^ 12 + i.fields.z.toNat :=
  Fields.word_toNat i.fields

/-! ## The fields of a word, on the number it is (rule R90) -/

theorem fieldsOf_op_toNat (w : Word) : (fieldsOf w).op.toNat = w.toNat / 2 ^ 24 := by
  have h := w.isLt
  simp only [fieldsOf, BitVec.extractLsb'_toNat, Nat.shiftRight_eq_div_pow]
  omega

theorem fieldsOf_rd_toNat (w : Word) : (fieldsOf w).rd.toNat = w.toNat / 2 ^ 20 % 16 := by
  simp only [fieldsOf, BitVec.extractLsb'_toNat, Nat.shiftRight_eq_div_pow, Nat.reducePow]

theorem fieldsOf_ra_toNat (w : Word) : (fieldsOf w).ra.toNat = w.toNat / 2 ^ 16 % 16 := by
  simp only [fieldsOf, BitVec.extractLsb'_toNat, Nat.shiftRight_eq_div_pow, Nat.reducePow]

theorem fieldsOf_rb_toNat (w : Word) : (fieldsOf w).rb.toNat = w.toNat / 2 ^ 12 % 16 := by
  simp only [fieldsOf, BitVec.extractLsb'_toNat, Nat.shiftRight_eq_div_pow, Nat.reducePow]

theorem fieldsOf_z_toNat (w : Word) : (fieldsOf w).z.toNat = w.toNat % 2 ^ 12 := by
  simp only [fieldsOf, BitVec.extractLsb'_toNat, Nat.shiftRight_zero]

/-! ## Refusals -/

/-- The decoder, or a part of it, answers that the word is illegal. -/
def refuses {α : Type} (x : Except Illegal α) : Prop := ∃ e, x = .error e

theorem refuses_error {α : Type} (e : Illegal) : refuses (.error e : Except Illegal α) := ⟨e, rfl⟩

theorem not_refuses_ok {α : Type} (v : α) : ¬ refuses (.ok v) := by
  rintro ⟨e, he⟩
  cases he

/-- The parts of a shape are read in turn, and what a part reads does not decide whether a later one refuses. -/
theorem refuses_bind {α β : Type} {x : Except Illegal α} {g : α → Except Illegal β} {P Q : Prop}
    (hx : refuses x ↔ P) (hg : ∀ v, refuses (g v) ↔ Q) : refuses (x >>= g) ↔ P ∨ Q := by
  rw [← hx]
  cases x with
  | error e => exact iff_of_true (refuses_error e) (.inl (refuses_error e))
  | ok v => exact (hg v).trans (or_iff_right (not_refuses_ok v)).symm

/-- After its last part a shape answers the command. -/
theorem refuses_bind_ok {α β : Type} {x : Except Illegal α} {c : α → β} {P : Prop} (hx : refuses x ↔ P) :
    refuses (x >>= fun v => .ok (c v)) ↔ P :=
  (refuses_bind hx fun v => iff_of_false (not_refuses_ok (c v)) id).trans (iff_of_eq (or_false P))

theorem refuses_reservedZero (f : Fields) : refuses (reservedZero f) ↔ f.z.toNat ≠ 0 := by
  unfold reservedZero
  split
  case isTrue h => simp [h, not_refuses_ok]
  case isFalse h => exact iff_of_true (refuses_error _) (by bv_omega)

end Sys2Proof

namespace Sys2Proof.Machine

/-! ## The selectors -/

@[simp] theorem badSelector_used {n : Nat} : badSelector true n ↔ 3 < n := by
  rw [badSelector, if_pos rfl]

@[simp] theorem badSelector_unused {n : Nat} : badSelector false n ↔ n ≠ 0 := by
  rw [badSelector, if_neg (by decide)]

theorem refuses_unused (b : BitVec 4) : refuses (unused b) ↔ badSelector false b.toNat := by
  unfold unused
  split
  case isTrue h => simp [h, not_refuses_ok]
  case isFalse h => exact iff_of_true (refuses_error _) (badSelector_unused.mpr (by bv_omega))

theorem refuses_pSelector (b : BitVec 4) : refuses (pSelector b) ↔ badSelector true b.toNat := by
  unfold pSelector
  split_ifs with h0 h1 h2 h3
  case neg => exact iff_of_true (refuses_error _) (badSelector_used.mpr (by bv_omega))
  all_goals exact iff_of_false (not_refuses_ok _) (by simp [*])

theorem refuses_fSelector (b : BitVec 4) : refuses (fSelector b) ↔ badSelector true b.toNat := by
  unfold fSelector
  split_ifs with h0 h1 h2 h3
  case neg => exact iff_of_true (refuses_error _) (badSelector_used.mpr (by bv_omega))
  all_goals exact iff_of_false (not_refuses_ok _) (by simp [*])

/-! ## The shapes of rule R93

A shape reads `Z` first and the selectors it does not use before those it uses. -/

/-- The fields break rule R94 for a command that uses `RD`, `RA`, `RB` as `d`, `a`, `b` say. -/
def illegalFor (f : Fields) (d a b : Bool) : Prop :=
  f.z.toNat ≠ 0 ∨ badSelector d f.rd.toNat ∨ badSelector a f.ra.toNat ∨ badSelector b f.rb.toNat

theorem refuses_noOperands (f : Fields) (i : Instr) : refuses (noOperands f i) ↔ illegalFor f false false false :=
  refuses_bind (refuses_reservedZero f) fun _ => refuses_bind (refuses_unused f.rd) fun _ =>
    refuses_bind (refuses_unused f.ra) fun _ => refuses_bind_ok (refuses_unused f.rb)

theorem refuses_destP (f : Fields) (c : PReg → Instr) : refuses (destP f c) ↔ illegalFor f true false false := by
  refine (refuses_bind (refuses_reservedZero f) fun _ => refuses_bind (refuses_unused f.ra) fun _ =>
    refuses_bind (refuses_unused f.rb) fun _ => refuses_bind_ok (refuses_pSelector f.rd)).trans ?_
  unfold illegalFor
  tauto

theorem refuses_srcP (f : Fields) (c : PReg → Instr) : refuses (srcP f c) ↔ illegalFor f false true false := by
  refine (refuses_bind (refuses_reservedZero f) fun _ => refuses_bind (refuses_unused f.rd) fun _ =>
    refuses_bind (refuses_unused f.rb) fun _ => refuses_bind_ok (refuses_pSelector f.ra)).trans ?_
  unfold illegalFor
  tauto

theorem refuses_srcPP (f : Fields) (c : PReg → PReg → Instr) : refuses (srcPP f c) ↔ illegalFor f false true true :=
  refuses_bind (refuses_reservedZero f) fun _ => refuses_bind (refuses_unused f.rd) fun _ =>
    refuses_bind (refuses_pSelector f.ra) fun _ => refuses_bind_ok (refuses_pSelector f.rb)

theorem refuses_srcFF (f : Fields) (c : FReg → FReg → Instr) : refuses (srcFF f c) ↔ illegalFor f false true true :=
  refuses_bind (refuses_reservedZero f) fun _ => refuses_bind (refuses_unused f.rd) fun _ =>
    refuses_bind (refuses_fSelector f.ra) fun _ => refuses_bind_ok (refuses_fSelector f.rb)

theorem refuses_destPSrcP (f : Fields) (c : PReg → PReg → Instr) :
    refuses (destPSrcP f c) ↔ illegalFor f true true false := by
  refine (refuses_bind (refuses_reservedZero f) fun _ => refuses_bind (refuses_unused f.rb) fun _ =>
    refuses_bind (refuses_pSelector f.rd) fun _ => refuses_bind_ok (refuses_pSelector f.ra)).trans ?_
  unfold illegalFor
  tauto

theorem refuses_destFSrcF (f : Fields) (c : FReg → FReg → Instr) :
    refuses (destFSrcF f c) ↔ illegalFor f true true false := by
  refine (refuses_bind (refuses_reservedZero f) fun _ => refuses_bind (refuses_unused f.rb) fun _ =>
    refuses_bind (refuses_fSelector f.rd) fun _ => refuses_bind_ok (refuses_fSelector f.ra)).trans ?_
  unfold illegalFor
  tauto

theorem refuses_destPSrcPP (f : Fields) (c : PReg → PReg → PReg → Instr) :
    refuses (destPSrcPP f c) ↔ illegalFor f true true true :=
  refuses_bind (refuses_reservedZero f) fun _ => refuses_bind (refuses_pSelector f.rd) fun _ =>
    refuses_bind (refuses_pSelector f.ra) fun _ => refuses_bind_ok (refuses_pSelector f.rb)

/-! ## The decoder -/

/-- `OP` fixes which selectors are used, and so for which fields `x` is a refusal. -/
inductive RefusalCase (f : Fields) (x : Except Illegal Instr) : Prop where
  | unassigned : selectorsUsed f.op.toNat = none → refuses x → RefusalCase f x
  | assigned (d a b) : selectorsUsed f.op.toNat = some (d, a, b) → (refuses x ↔ illegalFor f d a b) → RefusalCase f x

theorem selectorsUsed_eq_none {op : BitVec 8}
    (h : op ∉ [0x00#8, 0x01#8, 0x02#8, 0x10#8, 0x11#8, 0x12#8, 0x13#8, 0x18#8, 0x19#8, 0x1A#8, 0x1B#8, 0x20#8, 0x30#8,
      0x31#8, 0x40#8]) : selectorsUsed op.toNat = none := by
  simp only [List.mem_cons, List.not_mem_nil, or_false] at h
  unfold selectorsUsed
  split
  case h_16 => rfl
  all_goals bv_omega

theorem RefusalCase.of_op {f : Fields} {x : Except Illegal Instr} {op : BitVec 8} {d a b : Bool} (hop : f.op = op)
    (hused : selectorsUsed op.toNat = some (d, a, b)) (hx : refuses x ↔ illegalFor f d a b) : RefusalCase f x :=
  .assigned d a b (by rw [hop, hused]) hx

theorem refusalCase_decodeFields (f : Fields) : RefusalCase f (decodeFields f) := by
  unfold decodeFields
  split
  next h => exact .of_op h rfl (refuses_noOperands f _)
  next h => exact .of_op h rfl (refuses_noOperands f _)
  next h => exact .of_op h rfl (refuses_destP f _)
  next h => exact .of_op h rfl (refuses_srcPP f _)
  next h => exact .of_op h rfl (refuses_srcPP f _)
  next h => exact .of_op h rfl (refuses_srcP f _)
  next h => exact .of_op h rfl (refuses_destPSrcP f _)
  next h => exact .of_op h rfl (refuses_destFSrcF f _)
  next h => exact .of_op h rfl (refuses_destFSrcF f _)
  next h => exact .of_op h rfl (refuses_srcFF f _)
  next h => exact .of_op h rfl (refuses_destPSrcP f _)
  next h => exact .of_op h rfl (refuses_destFSrcF f _)
  next h => exact .of_op h rfl (refuses_destPSrcPP f _)
  next h => exact .of_op h rfl (refuses_destPSrcP f _)
  next h => exact .of_op h rfl (refuses_destPSrcP f _)
  next => exact .unassigned (selectorsUsed_eq_none (by simp_all)) (refuses_error _)

theorem illegalNumber_of_unassigned {n : Nat} (h : selectorsUsed (n / 2 ^ 24) = none) : illegalNumber n := by
  unfold illegalNumber
  rw [h]
  trivial

theorem illegalNumber_iff_of_assigned {w : Word} {d a b : Bool}
    (h : selectorsUsed (fieldsOf w).op.toNat = some (d, a, b)) :
    illegalNumber w.toNat ↔ illegalFor (fieldsOf w) d a b := by
  rw [illegalFor, fieldsOf_z_toNat, fieldsOf_rd_toNat, fieldsOf_ra_toNat, fieldsOf_rb_toNat]
  rw [fieldsOf_op_toNat] at h
  unfold illegalNumber
  rw [h]

theorem refuses_decode_iff (w : Word) : refuses (decode w) ↔ illegalNumber w.toNat := by
  cases refusalCase_decodeFields (fieldsOf w) with
  | unassigned hused hrefuses =>
    rw [fieldsOf_op_toNat] at hused
    exact iff_of_true hrefuses (illegalNumber_of_unassigned hused)
  | assigned d a b hused hrefuses => exact hrefuses.trans (illegalNumber_iff_of_assigned hused).symm

/-! ## The completion of an illegal word -/

/-- Rule R186, the statements' form and the model's. -/
theorem errorOf_eq_takeError (s : State) (e : ErrorCode) : errorOf s e = s.takeError e := by
  cases e <;> simp [errorOf, State.takeError, Esticky.record]

theorem step_of_refused {s : State} (hb : s.status.busy = true) (hc : s.coreNext = true) (hx : refuses (decode s.cmd)) :
    step s = .next ((afterTurn s).takeError .illegalCommand) := by
  obtain ⟨e, he⟩ := hx
  rw [step_core hc]
  simp [State.coreTurn, State.complete, hb, he, afterTurn]

/-! ## The statements -/

/-- Settles O4: rule R98 gives the word of any fields as a number, and `Instr.fields` the fields of each command. -/
theorem encodingFunction : Obligations.EncodingFunction := by
  unfold Obligations.EncodingFunction
  intro d a b e f g
  simp [encode_toNat, Instr.fields]

/-- Settles O6: each shape refuses exactly by rule R94, and the completion of a refused word takes the error. -/
theorem illegalWords : Obligations.IllegalWords := by
  unfold Obligations.IllegalWords
  refine ⟨refuses_decode_iff, ?_⟩
  intro s hb hc hx
  rw [errorOf_eq_takeError]
  exact step_of_refused hb hc ((refuses_decode_iff s.cmd).mpr hx)

end Sys2Proof.Machine
end

section
/-! SUPPORT. The domain and point family: an effect or an error that holds of a command is what its completion does,
trial division decides primality (spec/00_scope.md rule R8), and the point predicates and negation in closed form
(spec/40_domain_point.md rules R112 to R121). -/

namespace Sys2Proof.Machine

/-! ## From effects and errors back to the completion

`exec_next_cases` says that a completion is one effect or one error; here, that either one determines it. -/

theorem successOf_eq_succeed (s : State) : successOf s = s.succeed := rfl

theorem State.commit_needDomain_of_valid {s : State} (h : s.status.domv = true) (r : Except ErrorCode State) :
    s.commit (s.needDomain >>= fun _ => r) = s.commit r := by
  rw [State.needDomain_of_valid h]
  rfl

theorem exec_of_effect {s u : State} {i : Instr} (h : Effect s i u) : exec i s = .next (successOf u) := by
  cases h with
  | nop | peq | psxdy | pisid | fcmp => rfl
  | dominit hv hp hb => simp [exec, execDominit, State.domainCheck, successOf_eq_succeed, hv, hp, hb]
  | pldg _ hv | pneg _ _ hv | fred _ _ hv | fneg _ _ hv | pred _ _ hv => exact s.commit_needDomain_of_valid hv _
  | finv _ _ _ hv hr | padd _ _ _ _ hv hr | pdbl _ _ _ hv hr | pmul _ _ _ hv hr =>
    refine (s.commit_needDomain_of_valid hv _).trans ?_
    rw [hr]
    rfl

theorem Effect.domv_of_needsDomain {s u : State} {i : Instr} (h : Effect s i u) (hi : i.needsDomain = true) :
    s.status.domv = true := by
  cases h
  case nop | dominit | peq | psxdy | pisid | fcmp => cases hi
  all_goals assumption

/-- `NoInverse` depends on the operands, any other error on the domain only, and then there is no effect. -/
theorem Raises.not_effect {s u : State} {i : Instr} {e : ErrorCode} (h : Raises s i e) (he : e ≠ .noInverse) :
    ¬ Effect s i u := by
  intro heff
  cases h with
  | invalidCurve _ hbad =>
    cases heff with
    | dominit _ hp hb => simp [hp, hb] at hbad
  | locked hv =>
    cases heff with
    | dominit hn _ _ => simp [hv] at hn
  | notValid hi hn => simp [heff.domv_of_needsDomain hi] at hn
  | noInverse => exact he rfl

theorem Raises.unique {s : State} {i : Instr} {e e' : ErrorCode} (h : Raises s i e) (h' : Raises s i e')
    (he : e ≠ .noInverse) : e' = e := by
  cases h with
  | invalidCurve hn _ =>
    cases h' with
    | invalidCurve => rfl
    | locked hv => simp [hv] at hn
    | notValid hi _ | noInverse hi _ => cases hi
  | locked hv =>
    cases h' with
    | invalidCurve hn _ => simp [hv] at hn
    | locked => rfl
    | notValid hi _ | noInverse hi _ => cases hi
  | notValid hi hn =>
    cases h' with
    | invalidCurve | locked => cases hi
    | notValid => rfl
    | noInverse _ hv => simp [hv] at hn
  | noInverse => exact absurd rfl he

theorem exec_of_raises {s : State} {i : Instr} {e : ErrorCode} (h : Raises s i e) (he : e ≠ .noInverse) :
    exec i s = .next (errorOf s e) := by
  rcases exec_next_cases i s with ⟨u, heff, -⟩ | ⟨e', hraise, hexec⟩
  · exact absurd heff (h.not_effect he)
  · rw [errorOf_eq_takeError, hexec, h.unique hraise he]

theorem exec_of_domain_not_valid {s : State} {i : Instr} (hi : i.needsDomain = true) (h : s.status.domv = false) :
    exec i s = .next (errorOf s .domainNotValid) :=
  exec_of_raises (.notValid hi h) (by decide)

/-! ## The shared arithmetic in closed form -/

theorem isPrime_iff (n : Nat) : isPrime n = true ↔ n.Prime := by
  have htrial : noDivisorFrom n n 2 = true ↔ ∀ d, 2 ≤ d → d * d ≤ n → n % d ≠ 0 :=
    noDivisorFrom_iff n n 2 le_rfl (by nlinarith)
  rw [isPrime, Bool.and_eq_true, decide_eq_true_iff, htrial, Nat.prime_def_le_sqrt]
  simp only [Nat.le_sqrt, Nat.dvd_iff_mod_eq_zero, ne_eq]

theorem normP_neg {p : Nat} (hp : 0 < p) (n : Nat) : normP p (-(n : Int)) = (p - n % p) % p := by
  have hle : n % p ≤ p := (Nat.mod_lt n hp).le
  apply Int.natCast_inj.mp
  rw [natCast_normP hp]
  push_cast [hle]
  rw [sub_eq_add_neg, Int.add_emod_left]
  exact (Int.mod_modEq n p).neg.symm

theorem Point.equals_eq_decide (P Q : Point) : P.equals Q = decide (P.x = Q.x ∧ P.y = Q.y) := by
  simp [Point.equals, beq_eq_decide]

theorem Point.hasSameXDifferentY_eq_decide (P Q : Point) :
    P.hasSameXDifferentY Q = decide (P.x = Q.x ∧ P.y ≠ Q.y) := by
  simp [Point.hasSameXDifferentY, beq_eq_decide, bne]

theorem Point.isIdentity_eq_decide (P : Point) : P.isIdentity = decide (P.x = 0 ∧ P.y = 0) := by
  simp [Point.isIdentity, beq_eq_decide]

/-! ## The statements -/

/-- Settles O34: trial division decides the primality of rule R8, so its three cases are those of rule R112. -/
theorem dominitDecidesDomain : Obligations.DominitDecidesDomain := by
  unfold Obligations.DominitDecidesDomain
  refine ⟨by decide, fun s => ?_⟩
  rw [← Nat.prime_def, ← isPrime_iff]
  refine ⟨?_, ?_, ?_⟩
  · intro hv
    exact exec_of_raises (.locked hv) (by decide)
  · intro hn hp hb
    exact exec_of_effect (.dominit hn hp hb)
  · intro hn hbad
    have hcause : isPrime s.dp = false ∨ s.db % s.dp = 0 := by
      by_cases hb : s.db % s.dp = 0
      · exact .inr hb
      · exact .inl (Bool.eq_false_iff.mpr fun hp => hbad ⟨hp, hb⟩)
    exact exec_of_raises (.invalidCurve hn hcause) (by decide)

/-- Settles O37: the effect of `PNEG`, its normalisation written as a residue by `normP_neg`. -/
theorem pnegNegates : Obligations.PnegNegates := by
  unfold Obligations.PnegNegates
  intro s rd ra
  refine ⟨by simp [encode_toNat, Instr.fields], ?_, ?_⟩
  · intro hv hp
    rw [← normP_neg hp]
    exact exec_of_effect (.pneg rd ra hv)
  · intro hn
    exact exec_of_domain_not_valid rfl hn

/-- Settles O35: the effect of `PLDG` is the raw copy, and it needs a valid domain. -/
theorem pldgCopiesGenerator : Obligations.PldgCopiesGenerator := by
  unfold Obligations.PldgCopiesGenerator
  intro s rd
  refine ⟨by simp [encode_toNat, Instr.fields], ?_, ?_⟩
  · intro hv
    exact exec_of_effect (.pldg rd hv)
  · intro hn
    exact exec_of_domain_not_valid rfl hn

/-- Settles O36: the effect of each predicate is one flag, in every state. -/
theorem pointPredicates : Obligations.PointPredicates := by
  unfold Obligations.PointPredicates
  intro s ra rb
  rw [← Point.equals_eq_decide, ← Point.hasSameXDifferentY_eq_decide, ← Point.isIdentity_eq_decide]
  refine ⟨?_, ?_, ?_, exec_of_effect (.peq ra rb), exec_of_effect (.psxdy ra rb), exec_of_effect (.pisid ra)⟩
  all_goals simp [encode_toNat, Instr.fields]

end Sys2Proof.Machine
end

section
/-! SUPPORT. The field reduction and comparison family: the normalisations of rules R132, R133 and R135 are residues of
natural numbers (spec/41_field_reduce_compare.md). -/

namespace Sys2Proof.Machine

/-- Rule R135: register values are not negative, so reducing a point takes the residue of each coordinate. -/
theorem Point.reduce_eq_mod {p : Nat} (hp : 0 < p) (P : Point) : P.reduce p = ⟨P.x % p, P.y % p⟩ := by
  rw [Point.reduce, normP_natCast hp, normP_natCast hp]

/-! ## The statements -/

/-- Settles O38: the effects of `FRED` and `FNEG`, their normalisations written as residues by `normP_natCast` and
`normP_neg`. -/
theorem fieldReduceAndNegate : Obligations.FieldReduceAndNegate := by
  unfold Obligations.FieldReduceAndNegate
  intro s rd ra
  refine ⟨by simp [encode_toNat, Instr.fields], by simp [encode_toNat, Instr.fields], ?_, ?_⟩
  · intro hv hp
    constructor
    · rw [← normP_natCast hp]
      exact exec_of_effect (.fred rd ra hv)
    · rw [← normP_neg hp]
      exact exec_of_effect (.fneg rd ra hv)
  · intro hn
    exact ⟨exec_of_domain_not_valid rfl hn, exec_of_domain_not_valid rfl hn⟩

/-- Settles O40: the effect of `PRED`, its reduction written as two residues by `Point.reduce_eq_mod`. -/
theorem predReduces : Obligations.PredReduces := by
  unfold Obligations.PredReduces
  intro s rd ra
  refine ⟨by simp [encode_toNat, Instr.fields], ?_, ?_⟩
  · intro hv hp
    rw [← Point.reduce_eq_mod hp]
    exact exec_of_effect (.pred rd ra hv)
  · intro hn
    exact exec_of_domain_not_valid rfl hn

/-- Settles O39: the effect of `FCMP` is the two order flags, in every state. -/
theorem fcmpCompares : Obligations.FcmpCompares := by
  unfold Obligations.FcmpCompares
  intro s ra rb
  exact ⟨by simp [encode_toNat, Instr.fields], exec_of_effect (.fcmp ra rb)⟩

end Sys2Proof.Machine
end

section
/-! SUPPORT. The modular inverse family: under a prime modulus `inverse` answers exactly the one inverse in `[1, p-1]`,
or `NoInverse` for a multiple of the modulus, and so does `FINV` (spec/42_modular_inverse.md rules R140, R142, R143). -/

namespace Sys2Proof.Machine

/-! ## The inverse under a prime modulus -/

theorem emod_eq_one_iff {p : Nat} (hp : 1 < p) (a : Int) : a % p = 1 ↔ (p : Int) ∣ a - 1 := by
  have hone : (1 : Int) % p = 1 := Int.emod_eq_of_lt one_pos.le (by exact_mod_cast hp)
  rw [← Int.modEq_iff_dvd, Int.ModEq, hone, eq_comm]

/-- `inverse_spec` for a prime: sharing a factor with the modulus and being a multiple of it are the same. -/
theorem inverse_cases {p : Nat} (hp : p.Prime) (v : Int) :
    ((p : Int) ∣ v ∧ inverse p v = .error .noInverse) ∨ ∃ x : Nat, inverse p v = .ok x ∧ x < p ∧ v * x % p = 1 := by
  rcases inverse_spec hp.pos v with ⟨herr, hcause⟩ | ⟨x, hok, -, hlt, hmul⟩
  · refine .inl ⟨(normP_eq_zero_iff hp.pos v).mp ?_, herr⟩
    rcases hcause with hzero | hgcd
    · exact hzero
    · have hdvd : p ∣ normP p v := not_not.mp fun hn => hgcd (hp.coprime_iff_not_dvd.mpr hn)
      exact Nat.eq_zero_of_dvd_of_lt hdvd (normP_lt hp.pos v)
  · exact .inr ⟨x, hok, hlt, (emod_eq_one_iff hp.one_lt _).mpr hmul⟩

theorem not_dvd_of_mul_emod_eq_one {p : Nat} {v w : Int} (h : v * w % p = 1) : ¬ (p : Int) ∣ v := by
  intro hdvd
  have hzero : v * w % p = 0 := Int.emod_eq_zero_of_dvd (hdvd.mul_right w)
  omega

theorem pos_of_mul_emod_eq_one {p x : Nat} {v : Int} (h : v * x % p = 1) : 0 < x := by
  rcases Nat.eq_zero_or_pos x with rfl | hx
  · simp at h
  · exact hx

/-- Two inverses of one number agree: `x - y = y * (v * x - 1) - x * (v * y - 1)`. -/
theorem eq_of_mul_emod_eq_one {p x y : Nat} {v : Int} (hx : x < p) (hy : y < p) (hvx : v * x % p = 1)
    (hvy : v * y % p = 1) : x = y := by
  have hp : 1 < p := by
    have := pos_of_mul_emod_eq_one hvx
    omega
  have hdvd : (p : Int) ∣ y * (v * x - 1) - x * (v * y - 1) :=
    dvd_sub (((emod_eq_one_iff hp _).mp hvx).mul_left _) (((emod_eq_one_iff hp _).mp hvy).mul_left _)
  have hsub : (y * (v * x - 1) - x * (v * y - 1) : Int) = x - y := by ring
  rw [hsub] at hdvd
  exact Nat.ModEq.eq_of_lt_of_lt (Nat.modEq_iff_dvd.mpr hdvd).symm hx hy

theorem inverse_eq_ok_iff {p : Nat} (hp : p.Prime) {v : Int} {x : Nat} :
    inverse p v = .ok x ↔ x < p ∧ v * x % p = 1 := by
  rcases inverse_cases hp v with ⟨hdvd, herr⟩ | ⟨y, hok, hy, hvy⟩
  · rw [herr]
    exact iff_of_false (by simp) fun h => not_dvd_of_mul_emod_eq_one h.2 hdvd
  · rw [hok, Except.ok.injEq]
    constructor
    · rintro rfl
      exact ⟨hy, hvy⟩
    · rintro ⟨hx, hvx⟩
      exact eq_of_mul_emod_eq_one hy hx hvy hvx

theorem inverse_of_dvd {p : Nat} (hp : p.Prime) {v : Int} (h : (p : Int) ∣ v) : inverse p v = .error .noInverse := by
  rcases inverse_cases hp v with ⟨-, herr⟩ | ⟨x, -, -, hvx⟩
  · exact herr
  · exact absurd h (not_dvd_of_mul_emod_eq_one hvx)

theorem inverse_of_not_dvd {p : Nat} (hp : p.Prime) {v : Int} (h : ¬ (p : Int) ∣ v) :
    ∃ x : Nat, inverse p v = .ok x ∧ 0 < x ∧ x < p ∧ v * x % p = 1 := by
  rcases inverse_cases hp v with ⟨hdvd, -⟩ | ⟨x, hok, hlt, hvx⟩
  · exact absurd hdvd h
  · exact ⟨x, hok, pos_of_mul_emod_eq_one hvx, hlt, hvx⟩

/-! ## The consequences of rule R142 -/

theorem inverse_one {p : Nat} (hp : p.Prime) : inverse p 1 = .ok 1 :=
  (inverse_eq_ok_iff hp).mpr ⟨hp.one_lt, (emod_eq_one_iff hp.one_lt _).mpr (by simp)⟩

/-- `(p - 1) * (p - 1) - 1 = p * (p - 2)`. -/
theorem inverse_sub_one {p : Nat} (hp : p.Prime) : inverse p (p - 1) = .ok (p - 1) := by
  refine (inverse_eq_ok_iff hp).mpr ⟨Nat.sub_one_lt hp.ne_zero, (emod_eq_one_iff hp.one_lt _).mpr ⟨p - 2, ?_⟩⟩
  push_cast [hp.one_le]
  ring

theorem inverse_inverse {p x : Nat} (hp : p.Prime) {v : Int} (h : inverse p v = .ok x) :
    inverse p x = .ok (v % p).toNat := by
  obtain ⟨-, hvx⟩ := (inverse_eq_ok_iff hp).mp h
  rw [← natCast_normP hp.pos, Int.toNat_natCast]
  refine (inverse_eq_ok_iff hp).mpr ⟨normP_lt hp.pos v, ?_⟩
  calc (x * normP p v : Int) % p = x * (v % p) % p := by rw [natCast_normP hp.pos]
    _ = x * v % p := (Int.mod_modEq v p).mul_left x
    _ = 1 := by rw [mul_comm, hvx]

theorem inverse_congr {p : Nat} {v w : Int} (h : normP p v = normP p w) : inverse p v = inverse p w := by
  simp only [inverse, h]

theorem inverse_add_modulus {p : Nat} (hp : 0 < p) (v : Int) : inverse p v = inverse p (v + p) :=
  inverse_congr ((normP_eq_iff hp _ _).mpr (Int.add_emod_right ..).symm)

theorem inverse_two_of_odd {v : Int} (h : v % 2 = 1) : inverse 2 v = .ok 1 :=
  (inverse_eq_ok_iff Nat.prime_two).mpr ⟨by decide, by simpa using h⟩

/-! ## A completion with `NoInverse` -/

/-- With a valid domain a command of rule R182 raises nothing but `NoInverse`, so it takes that error when it has no
effect. -/
theorem exec_of_no_effect {s : State} {i : Instr} (hi : i.inverts = true) (hv : s.status.domv = true)
    (h : ∀ u, ¬ Effect s i u) : exec i s = .next (errorOf s .noInverse) := by
  rcases exec_next_cases i s with ⟨u, heff, -⟩ | ⟨e, hraise, hexec⟩
  · exact absurd heff (h u)
  · rw [errorOf_eq_takeError, hexec]
    cases hraise with
    | invalidCurve | locked => cases hi
    | notValid _ hn => simp [hv] at hn
    | noInverse => rfl

theorem exec_finv_of_error {s : State} {rd ra : FReg} {e : ErrorCode} (hv : s.status.domv = true)
    (h : inverse s.dp (s.field ra) = .error e) : exec (.finv rd ra) s = .next (errorOf s .noInverse) := by
  refine exec_of_no_effect rfl hv fun u heff => ?_
  cases heff with
  | finv _ _ x _ hok => simp [h] at hok

/-! ## The statements -/

/-- Settles O41: the effect of `FINV` is the inverse that `inverse_of_not_dvd` gives, and a multiple of the modulus
leaves it none. -/
theorem finvInverts : Obligations.FinvInverts := by
  unfold Obligations.FinvInverts
  intro s rd ra
  have hmod : (s.dp : Int) ∣ s.field ra ↔ s.field ra % s.dp = 0 := by
    rw [Int.natCast_dvd_natCast, Nat.dvd_iff_mod_eq_zero]
  refine ⟨by simp [encode_toNat, Instr.fields], ?_, ?_, ?_⟩
  · intro hv hp hne
    obtain ⟨x, hok, hpos, hlt, hmul⟩ := inverse_of_not_dvd hp (mt hmod.mp hne)
    exact ⟨x, hpos, hlt, by exact_mod_cast hmul, exec_of_effect (.finv rd ra x hv hok)⟩
  · intro hv hp hzero
    exact exec_finv_of_error hv (inverse_of_dvd hp (hmod.mpr hzero))
  · intro hn
    exact exec_of_domain_not_valid rfl hn

/-- Settles O42: a residue is the answer exactly when its product with the argument is 1 (`inverse_eq_ok_iff`), and the
answer depends on the argument's residue only (`inverse_congr`). -/
theorem inverseLaws : Obligations.InverseLaws := by
  unfold Obligations.InverseLaws
  intro p v hp
  refine ⟨inverse_of_dvd hp, ?_, inverse_one hp, inverse_sub_one hp, fun _ => inverse_inverse hp,
    inverse_add_modulus hp.pos v, ?_⟩
  · intro hn
    obtain ⟨x, hok, hpos, hlt, hmul⟩ := inverse_of_not_dvd hp hn
    exact ⟨x, hok, hpos, hlt, hmul, fun y _ hy hvy => eq_of_mul_emod_eq_one hy hlt hvy hmul⟩
  · rintro rfl
    exact ⟨inverse_two_of_odd, fun heven => inverse_of_dvd hp (Int.dvd_of_emod_eq_zero heven)⟩

end Sys2Proof.Machine
end

section
/-! SUPPORT. The point addition and doubling family: under a prime modulus the tangent and the chord have a third point
exactly when their denominator is not a multiple of the modulus (spec/43_point_add_double.md rules R150 to R155). -/

namespace Sys2Proof.Machine

/-! ## The doubler under a prime modulus -/

theorem dbl_of_eq_ident {p a : Nat} {P : Point} (h : P = Point.ident) : dbl p a P = .ok Point.ident := by
  rw [h]
  rfl

theorem dbl_of_dvd {p a : Nat} {P : Point} (hp : p.Prime) (hne : P ≠ Point.ident) (h : p ∣ 2 * P.y) :
    dbl p a P = .error .noInverse := by
  have hinv : inverse p (2 * P.y) = .error .noInverse := inverse_of_dvd hp (by exact_mod_cast h)
  simp [dbl, Point.isIdentity_iff, hne, hinv]

theorem Point.ne_ident_of_not_dvd {p : Nat} {P : Point} (h : ¬ p ∣ 2 * P.y) : P ≠ Point.ident := by
  rintro rfl
  exact h (dvd_zero p)

/-- The tangent formulas of rule R150, each normalisation written as a residue. -/
theorem dbl_of_not_dvd {p a : Nat} {P : Point} (hp : p.Prime) (h : ¬ p ∣ 2 * P.y) :
    ∃ inv slope x3 y3 : Nat, inv < p ∧ 2 * P.y * inv % p = 1 ∧ slope = (3 * P.x * P.x + a) * inv % p ∧
      (x3 : Int) = ((slope : Int) * slope - 2 * P.x) % p ∧
      (y3 : Int) = ((slope : Int) * (P.x - x3) - P.y) % p ∧ dbl p a P = .ok ⟨x3, y3⟩ := by
  obtain ⟨inv, hinv, -, hlt, hmul⟩ := inverse_of_not_dvd (v := 2 * P.y) hp (by exact_mod_cast h)
  refine ⟨inv, normP p ((3 * P.x * P.x + a) * inv), _, _, hlt, by exact_mod_cast hmul, ?_, natCast_normP hp.pos _,
    natCast_normP hp.pos _, ?_⟩
  · exact_mod_cast normP_natCast hp.pos ((3 * P.x * P.x + a) * inv)
  · simp [dbl, Point.isIdentity_iff, Point.ne_ident_of_not_dvd h, hinv]

/-! ## The adder, an equation per case of rule R152 -/

theorem add_self (p a : Nat) (P : Point) : add p a P P = dbl p a P := by
  simp [add, Point.equals]

theorem add_of_eq_x {p a : Nat} {P Q : Point} (hx : P.x = Q.x) (hy : P.y ≠ Q.y) :
    add p a P Q = .ok Point.ident := by
  simp [add, Point.equals, Point.hasSameXDifferentY, hx, hy]

/-- Cases 1 and 2 are those of equal x. -/
theorem add_of_ne_x {p a : Nat} {P Q : Point} (hx : P.x ≠ Q.x) :
    add p a P Q = if P.isIdentity then .ok Q else if Q.isIdentity then .ok P else addGeneral p P Q := by
  simp [add, Point.equals, Point.hasSameXDifferentY, hx]

theorem add_of_left_ident {p a : Nat} {P Q : Point} (hx : P.x ≠ Q.x) (hP : P = Point.ident) :
    add p a P Q = .ok Q := by
  rw [add_of_ne_x hx, if_pos ((Point.isIdentity_iff P).mpr hP)]

theorem add_of_right_ident {p a : Nat} {P Q : Point} (hx : P.x ≠ Q.x) (hQ : Q = Point.ident) :
    add p a P Q = .ok P := by
  have hP : P ≠ Point.ident := fun h => hx (congrArg Point.x (h.trans hQ.symm))
  rw [add_of_ne_x hx, if_neg (mt (Point.isIdentity_iff P).mp hP), if_pos ((Point.isIdentity_iff Q).mpr hQ)]

theorem add_of_ne_ident {p a : Nat} {P Q : Point} (hx : P.x ≠ Q.x) (hP : P ≠ Point.ident) (hQ : Q ≠ Point.ident) :
    add p a P Q = addGeneral p P Q := by
  rw [add_of_ne_x hx, if_neg (mt (Point.isIdentity_iff P).mp hP), if_neg (mt (Point.isIdentity_iff Q).mp hQ)]

/-! ## The chord under a prime modulus -/

/-- The differences of the coordinates after the sign step of case 4 (rule R153), the negation written as the swap of
the points; `chordDiff_eq_neg` ties it to `addGeneral`. -/
def chordDiff (P Q : Point) : Int × Int :=
  if (Q.x : Int) - P.x < 0 then ((P.x : Int) - Q.x, (P.y : Int) - Q.y) else ((Q.x : Int) - P.x, (Q.y : Int) - P.y)

theorem chordDiff_eq_neg (P Q : Point) :
    (if (Q.x : Int) - P.x < 0 then (-((Q.x : Int) - P.x), -((Q.y : Int) - P.y))
      else ((Q.x : Int) - P.x, (Q.y : Int) - P.y)) = chordDiff P Q := by
  rw [chordDiff, neg_sub, neg_sub]

theorem chordDiff_pos {P Q : Point} (h : P.x ≠ Q.x) : 0 < (chordDiff P Q).1 := by
  unfold chordDiff
  split <;> dsimp only <;> omega

theorem dvd_chordDiff_iff {p : Nat} {P Q : Point} : (p : Int) ∣ (chordDiff P Q).1 ↔ P.x % p = Q.x % p := by
  have hmod : P.x % p = Q.x % p ↔ (p : Int) ∣ Q.x - P.x := Nat.modEq_iff_dvd
  rw [hmod, chordDiff]
  split
  · exact dvd_sub_comm
  · rfl

theorem addGeneral_of_mod_eq {p : Nat} {P Q : Point} (hp : p.Prime) (h : P.x % p = Q.x % p) :
    addGeneral p P Q = .error .noInverse := by
  simp only [addGeneral, chordDiff_eq_neg, inverse_of_dvd hp (dvd_chordDiff_iff.mpr h)]

/-- The chord formulas of rule R152, each normalisation written as a residue. -/
theorem addGeneral_of_mod_ne {p : Nat} {P Q : Point} (hp : p.Prime) (h : P.x % p ≠ Q.x % p) :
    ∃ inv slope x3 y3 : Nat, inv < p ∧ (chordDiff P Q).1 * inv % p = 1 ∧
      (slope : Int) = (chordDiff P Q).2 * inv % p ∧ (x3 : Int) = ((slope : Int) * slope - P.x - Q.x) % p ∧
      (y3 : Int) = ((slope : Int) * (P.x - x3) - P.y) % p ∧ addGeneral p P Q = .ok ⟨x3, y3⟩ := by
  obtain ⟨inv, hinv, -, hlt, hmul⟩ := inverse_of_not_dvd hp (mt dvd_chordDiff_iff.mp h)
  refine ⟨inv, _, _, _, hlt, hmul, natCast_normP hp.pos _, natCast_normP hp.pos _, natCast_normP hp.pos _, ?_⟩
  simp only [addGeneral, chordDiff_eq_neg, hinv]

/-! ## Completions -/

theorem exec_pdbl_of_error {s : State} {rd ra : PReg} {e : ErrorCode} (hv : s.status.domv = true)
    (h : dbl s.dp s.da (s.point ra) = .error e) : exec (.pdbl rd ra) s = .next (errorOf s .noInverse) := by
  refine exec_of_no_effect rfl hv fun u heff => ?_
  cases heff with
  | pdbl _ _ r _ hok => simp [h] at hok

theorem exec_padd_of_error {s : State} {rd ra rb : PReg} {e : ErrorCode} (hv : s.status.domv = true)
    (h : add s.dp s.da (s.point ra) (s.point rb) = .error e) :
    exec (.padd rd ra rb) s = .next (errorOf s .noInverse) := by
  refine exec_of_no_effect rfl hv fun u heff => ?_
  cases heff with
  | padd _ _ _ r _ hok => simp [h] at hok

/-- Case 1 of rule R152: `PADD` of equal pairs is `PDBL`, errors included. -/
theorem exec_padd_of_eq {s : State} {rd ra rb : PReg} (h : s.point ra = s.point rb) :
    exec (.padd rd ra rb) s = exec (.pdbl rd ra) s := by
  simp only [exec, execPadd, execPdbl, ← h, add_self]

/-! ## The statements -/

/-- Settles O44: the answers of the doubler, and the domain it needs; the inverse of `2y` exists exactly when the
modulus does not divide it. -/
theorem pdblDoubles : Obligations.PdblDoubles := by
  unfold Obligations.PdblDoubles
  intro s rd ra
  refine ⟨by simp [encode_toNat, Instr.fields], ?_, ?_, ?_, ?_⟩
  · intro hv hident
    exact exec_of_effect (.pdbl rd ra _ hv (dbl_of_eq_ident hident))
  · intro hv hp hne hdvd
    exact exec_pdbl_of_error hv (dbl_of_dvd hp hne hdvd)
  · intro hv hp hndvd
    obtain ⟨inv, slope, x3, y3, hlt, hmul, hslope, hx3, hy3, hdbl⟩ := dbl_of_not_dvd (a := s.da) hp hndvd
    exact ⟨inv, slope, x3, y3, hlt, hmul, hslope, hx3, hy3, exec_of_effect (.pdbl rd ra _ hv hdbl)⟩
  · intro hn
    exact exec_of_domain_not_valid rfl hn

/-- Settles O45: one equation of the adder per case of rule R152, in SC's order; the chord's positive difference has an
inverse exactly when the x coordinates differ modulo the modulus. -/
theorem paddAdds : Obligations.PaddAdds := by
  unfold Obligations.PaddAdds
  rintro s rd ra rb P Q rfl rfl
  refine ⟨by simp [encode_toNat, Instr.fields], fun _ heq => exec_padd_of_eq heq, ?_, ?_, ?_, ?_, ?_, ?_⟩
  · intro hv hx hy
    exact exec_of_effect (.padd rd ra rb _ hv (add_of_eq_x hx hy))
  · intro hv hx hP
    exact exec_of_effect (.padd rd ra rb _ hv (add_of_left_ident hx hP))
  · intro hv hx hQ
    exact exec_of_effect (.padd rd ra rb _ hv (add_of_right_ident hx hQ))
  · intro hv hp hx hP hQ hmod
    exact exec_padd_of_error hv ((add_of_ne_ident hx hP hQ).trans (addGeneral_of_mod_eq hp hmod))
  · intro hv hp hP hQ hmod
    have hx : (s.point ra).x ≠ (s.point rb).x := fun heq => hmod (congrArg (· % s.dp) heq)
    obtain ⟨inv, slope, x3, y3, hlt, hmul, hslope, hx3, hy3, hchord⟩ := addGeneral_of_mod_ne hp hmod
    exact ⟨_, _, inv, slope, x3, y3, rfl, chordDiff_pos hx, hlt, hmul, hslope, hx3, hy3,
      exec_of_effect (.padd rd ra rb _ hv ((add_of_ne_ident hx hP hQ).trans hchord))⟩
  · intro hn
    exact exec_of_domain_not_valid rfl hn

end Sys2Proof.Machine
end

section
/-! SUPPORT. The scalar multiplier family: the loop of rule R170 is the fold of its pass over the bits of the scalar,
and what `PMUL` writes and keeps (spec/44_scalar_multiply.md rules R170, R172). -/

namespace Sys2Proof.Machine

/-! ## The loop is a fold over the bits -/

/-- The model's pass is `bitPass` on the low bit of `MK`. -/
theorem MulSeq.pass_bit (p a : Nat) (b : Bool) (n : Nat) (R A : Point) :
    MulSeq.pass p a ⟨n.bit b, R, A⟩ = (bitPass p a (R, A) b).map fun q => ⟨n, q.1, q.2⟩ := by
  simp only [MulSeq.pass, bitPass, Nat.bit_mod_two, Nat.bit_div_two]
  cases b with
  | false => cases dbl p a A <;> rfl
  | true =>
    cases add p a R A with
    | error e => rfl
    | ok r => cases dbl p a A <;> rfl

/-- One turn of the loop of rule R170 on a scalar that is not 0, by its low bit. -/
theorem mulLoop_bit (p a : Nat) {b : Bool} {n : Nat} (h : n = 0 → b = true) (R A : Point) :
    mulLoop p a (n.bit b) ⟨n.bit b, R, A⟩ =
      bitPass p a (R, A) b >>= fun q => mulLoop p a n ⟨n, q.1, q.2⟩ := by
  rw [mulLoop_unroll p a ⟨n.bit b, R, A⟩ (Nat.bit_ne_zero_iff.mpr h), MulSeq.pass_bit]
  cases bitPass p a (R, A) b <;> rfl

/-- The loop's result register, bit by bit; `MA` is part of the fold's accumulator and `MK` the bits still to come. -/
theorem mulLoop_map_mR (p a k : Nat) (R A : Point) :
    (mulLoop p a k ⟨k, R, A⟩).map MulSeq.mR = ((Nat.bits k).foldlM (bitPass p a) (R, A)).map Prod.fst := by
  induction k using Nat.binaryRec' generalizing R A with
  | zero => rfl
  | bit b n h ih =>
    rw [mulLoop_bit p a h, Nat.bits_append_bit n b h, List.foldlM_cons]
    cases bitPass p a (R, A) b with
    | error e => rfl
    | ok q => exact ih q.1 q.2

theorem mul_eq_map_mR (p a k : Nat) (P : Point) :
    mul p a k P = (mulLoop p a k ⟨k, Point.ident, P⟩).map MulSeq.mR := by
  unfold mul
  cases mulLoop p a k ⟨k, Point.ident, P⟩ <;> rfl

theorem mul_eq_foldlM (p a k : Nat) (P : Point) :
    mul p a k P = ((Nat.bits k).foldlM (bitPass p a) (Point.ident, P)).map Prod.fst :=
  (mul_eq_map_mR p a k P).trans (mulLoop_map_mR p a k Point.ident P)

/-! ## The scalar 0 and the sentinel -/

/-- The sentinel doubles to the sentinel and its sum with itself is its doubling, so no pass leaves the sentinel. -/
theorem bitPass_ident (p a : Nat) (b : Bool) :
    bitPass p a (Point.ident, Point.ident) b = .ok (Point.ident, Point.ident) := by
  cases b <;> rfl

theorem foldlM_bitPass_ident (p a : Nat) (bs : List Bool) :
    bs.foldlM (bitPass p a) (Point.ident, Point.ident) = .ok (Point.ident, Point.ident) := by
  induction bs with
  | nil => rfl
  | cons b bs ih =>
    rw [List.foldlM_cons, bitPass_ident]
    exact ih

theorem mul_ident (p a k : Nat) : mul p a k Point.ident = .ok Point.ident := by
  rw [mul_eq_foldlM, foldlM_bitPass_ident]
  rfl

theorem mul_of_zero_or_ident {p a k : Nat} {P : Point} (h : k = 0 ∨ P = Point.ident) :
    mul p a k P = .ok Point.ident := by
  rcases h with rfl | rfl
  · rfl
  · exact mul_ident p a k

/-! ## Completions -/

theorem exec_pmul_of_error {s : State} {rd ra : PReg} {e : ErrorCode} (hv : s.status.domv = true)
    (h : mul s.dp s.da s.k (s.point ra) = .error e) : exec (.pmul rd ra) s = .next (errorOf s .noInverse) := by
  refine exec_of_no_effect rfl hv fun u heff => ?_
  cases heff with
  | pmul _ _ r _ hok => simp [h] at hok

/-- `PMUL` keeps its scalar, and its source unless it is the destination. -/
theorem exec_pmul_keeps {s t : State} {rd ra : PReg} (h : exec (.pmul rd ra) s = .next t) :
    t.k = s.k ∧ (rd ≠ ra → t.point ra = s.point ra) := by
  rcases exec_next_cases (.pmul rd ra) s with ⟨u, heff, hexec⟩ | ⟨e, -, hexec⟩
  · rw [hexec] at h
    cases h
    cases heff with
    | pmul _ _ r _ _ => exact ⟨by simp, fun hne => by simp [State.point_setPoint, hne.symm]⟩
  · rw [hexec] at h
    cases h
    exact ⟨by simp, fun _ => by simp⟩

/-! ## The statements -/

/-- Settles O48: one turn of the loop is `bitPass` on the low bit, by induction on the scalar's bits. -/
theorem mulIsFoldOverBits : Obligations.MulIsFoldOverBits := by
  unfold Obligations.MulIsFoldOverBits
  intro p a k P
  exact mul_eq_foldlM p a k P

/-- Settles O46: the effect of `PMUL` is the write of `mul`'s pair, `mul`'s error leaves it none, and the scalar 0 and
the sentinel multiply to the sentinel (`mul_of_zero_or_ident`). -/
theorem pmulMultiplies : Obligations.PmulMultiplies := by
  unfold Obligations.PmulMultiplies
  intro s rd ra
  refine ⟨by simp [encode_toNat, Instr.fields], ?_, ?_, ?_, ?_, ?_⟩
  · intro R hv hmul
    exact exec_of_effect (.pmul rd ra R hv hmul)
  · intro e hv hmul
    exact exec_pmul_of_error hv hmul
  · intro hv hzero
    exact exec_of_effect (.pmul rd ra _ hv (mul_of_zero_or_ident hzero))
  · intro hn
    exact exec_of_domain_not_valid rfl hn
  · intro t h
    exact exec_pmul_keeps h

end Sys2Proof.Machine
end

section
/-! SUPPORT. The error family (spec/60_exceptions.md rules R180 to R186): when a command raises each error, that the error
a completion records is one its command raises, and the outcomes of a completion step. -/

namespace Sys2Proof.Machine

/-! ## Which command raises which error (rules R181 to R184) -/

theorem raises_invalidCurveParameter_iff {s : State} {i : Instr} :
    Raises s i .invalidCurveParameter ↔
      i = .dominit ∧ s.status.domv = false ∧ (isPrime s.dp = false ∨ s.db % s.dp = 0) := by
  constructor
  · intro h
    cases h with
    | invalidCurve hn hbad => exact ⟨rfl, hn, hbad⟩
  · rintro ⟨rfl, hn, hbad⟩
    exact .invalidCurve hn hbad

theorem raises_noInverse_iff {s : State} {i : Instr} :
    Raises s i .noInverse ↔ i.inverts = true ∧ s.status.domv = true := by
  constructor
  · intro h
    cases h with
    | noInverse hi hv => exact ⟨hi, hv⟩
  · rintro ⟨hi, hv⟩
    exact .noInverse hi hv

/-- A word that decodes never ends in `IllegalCommand`. -/
theorem not_raises_illegalCommand {s : State} {i : Instr} : ¬ Raises s i .illegalCommand := by
  intro h
  cases h

theorem raises_domainNotValid_iff {s : State} {i : Instr} :
    Raises s i .domainNotValid ↔ i.needsDomain = true ∧ s.status.domv = false := by
  constructor
  · intro h
    cases h with
    | notValid hi hn => exact ⟨hi, hn⟩
  · rintro ⟨hi, hn⟩
    exact .notValid hi hn

theorem raises_domainLocked_iff {s : State} {i : Instr} :
    Raises s i .domainLocked ↔ i = .dominit ∧ s.status.domv = true := by
  constructor
  · intro h
    cases h with
    | locked hv => exact ⟨rfl, hv⟩
  · rintro ⟨rfl, hv⟩
    exact .locked hv

/-! ## The error a completion records -/

theorem raises_of_errcode {s t : State} {i : Instr} {e : ErrorCode} (h : exec i s = .next t)
    (he : t.errcode = some e) : Raises s i e := by
  rcases exec_next_cases i s with ⟨u, -, hexec⟩ | ⟨c, hraise, hexec⟩
  · rw [hexec] at h
    cases h
    cases he
  · rw [hexec] at h
    cases h
    cases he
    exact hraise

/-- `NoInverse` is left out: whether it is taken depends on the operands, which `Raises` does not look at. -/
theorem errcode_eq_some_iff_raises {s t : State} {i : Instr} {e : ErrorCode} (h : exec i s = .next t)
    (hne : e ≠ .noInverse) : t.errcode = some e ↔ Raises s i e := by
  constructor
  · exact raises_of_errcode h
  · intro hraise
    rw [exec_of_raises hraise hne] at h
    cases h
    rfl

/-! ## The outcomes of a completion step -/

/-- A step in which the core completes a pending word ends in a success or takes one error (rules R65, R186). -/
theorem step_completion_cases {s t : State} (hb : s.status.busy = true) (hc : s.coreNext = true)
    (h : step s = .next t) : (∃ u : State, t = u.succeed) ∨ ∃ e, t = (afterTurn s).takeError e := by
  rw [step_core hc, State.coreTurn, if_pos hb, State.complete] at h
  split at h
  · cases h
    exact .inr ⟨.illegalCommand, rfl⟩
  · next i _ =>
    rcases exec_next_cases i (afterTurn s) with ⟨u, -, hexec⟩ | ⟨e, -, hexec⟩
    · exact .inl ⟨u, Host.Outcome.next.inj (h.symm.trans hexec)⟩
    · exact .inr ⟨e, Host.Outcome.next.inj (h.symm.trans hexec)⟩

/-! ## The statements -/

/-- Settles O22: a completion that does not take an error is a success, and that leaves `ERR` at 0. -/
theorem errorEntry : Obligations.ErrorEntry := by
  unfold Obligations.ErrorEntry
  intro s t hb hc h herr
  rcases step_completion_cases hb hc h with ⟨u, rfl⟩ | ⟨e, rfl⟩
  · cases herr
  · exact ⟨e, (errorOf_eq_takeError _ e).symm⟩

/-- Settles O23: the code recorded is one the command raises (`raises_of_errcode`), and an error that depends on the
domain alone is taken whenever it is raised (`exec_of_raises`). -/
theorem errorsByCommand : Obligations.ErrorsByCommand := by
  unfold Obligations.ErrorsByCommand
  refine ⟨rfl, ?_, ?_, ?_, ?_⟩
  · intro i s t h
    refine ⟨?_, ?_, ?_, ?_, ?_⟩
    · intro he
      obtain ⟨hi, hn, -⟩ := raises_invalidCurveParameter_iff.mp (raises_of_errcode h he)
      exact ⟨hi, hn⟩
    · intro he
      exact raises_noInverse_iff.mp (raises_of_errcode h he)
    · intro he
      exact not_raises_illegalCommand (raises_of_errcode h he)
    · exact (errcode_eq_some_iff_raises h (by decide)).trans raises_domainNotValid_iff
    · exact (errcode_eq_some_iff_raises h (by decide)).trans raises_domainLocked_iff
  · intro i s hi hn
    exact exec_of_domain_not_valid hi hn
  · intro s hv
    exact exec_of_raises (.locked hv) (by decide)
  · intro s hb hc hx
    rw [errorOf_eq_takeError]
    exact step_of_refused hb hc hx

end Sys2Proof.Machine
end

section
/-! SUPPORT. The codec family: a word decodes to a command exactly when its fields are the command's, so the decoder and
the encoder are inverse both ways, and the match and mask table accepts the same words (spec/30_encoding.md rules R90 to
R98). -/

namespace Sys2Proof

/-! ## What each shape of rule R93 accepts -/

theorem bind_eq_ok {ε α β : Type} {x : Except ε α} {g : α → Except ε β} {r : β} :
    x >>= g = .ok r ↔ ∃ v, x = .ok v ∧ g v = .ok r := by
  cases x with
  | error e => exact iff_of_false (by rintro ⟨⟩) (by rintro ⟨v, ⟨⟩, -⟩)
  | ok v => exact ⟨fun h => ⟨v, rfl, h⟩, by rintro ⟨_, ⟨⟩, h⟩; exact h⟩

theorem Fields.ext_iff {f g : Fields} :
    f = g ↔ f.op = g.op ∧ f.rd = g.rd ∧ f.ra = g.ra ∧ f.rb = g.rb ∧ f.z = g.z := by
  cases f
  cases g
  exact iff_of_eq (Fields.mk.injEq ..)

section
variable {f : Fields} {i : Instr}

theorem noOperands_eq_ok {c : Instr} : noOperands f c = .ok i ↔ i = c ∧ f = ⟨f.op, 0#4, 0#4, 0#4, 0#12⟩ := by
  simp only [noOperands, bind_eq_ok, reservedZero_eq_ok, unused_eq_ok, Fields.ext_iff, Except.ok.injEq]
  grind

theorem destP_eq_ok {c : PReg → Instr} :
    destP f c = .ok i ↔ ∃ d, i = c d ∧ f = ⟨f.op, d.selector, 0#4, 0#4, 0#12⟩ := by
  simp only [destP, bind_eq_ok, reservedZero_eq_ok, unused_eq_ok, pSelector_eq_ok, Fields.ext_iff, Except.ok.injEq]
  grind

theorem srcP_eq_ok {c : PReg → Instr} :
    srcP f c = .ok i ↔ ∃ a, i = c a ∧ f = ⟨f.op, 0#4, a.selector, 0#4, 0#12⟩ := by
  simp only [srcP, bind_eq_ok, reservedZero_eq_ok, unused_eq_ok, pSelector_eq_ok, Fields.ext_iff, Except.ok.injEq]
  grind

theorem srcPP_eq_ok {c : PReg → PReg → Instr} :
    srcPP f c = .ok i ↔ ∃ a b, i = c a b ∧ f = ⟨f.op, 0#4, a.selector, b.selector, 0#12⟩ := by
  simp only [srcPP, bind_eq_ok, reservedZero_eq_ok, unused_eq_ok, pSelector_eq_ok, Fields.ext_iff, Except.ok.injEq]
  grind

theorem srcFF_eq_ok {c : FReg → FReg → Instr} :
    srcFF f c = .ok i ↔ ∃ a b, i = c a b ∧ f = ⟨f.op, 0#4, a.selector, b.selector, 0#12⟩ := by
  simp only [srcFF, bind_eq_ok, reservedZero_eq_ok, unused_eq_ok, fSelector_eq_ok, Fields.ext_iff, Except.ok.injEq]
  grind

theorem destPSrcP_eq_ok {c : PReg → PReg → Instr} :
    destPSrcP f c = .ok i ↔ ∃ d a, i = c d a ∧ f = ⟨f.op, d.selector, a.selector, 0#4, 0#12⟩ := by
  simp only [destPSrcP, bind_eq_ok, reservedZero_eq_ok, unused_eq_ok, pSelector_eq_ok, Fields.ext_iff,
    Except.ok.injEq]
  grind

theorem destFSrcF_eq_ok {c : FReg → FReg → Instr} :
    destFSrcF f c = .ok i ↔ ∃ d a, i = c d a ∧ f = ⟨f.op, d.selector, a.selector, 0#4, 0#12⟩ := by
  simp only [destFSrcF, bind_eq_ok, reservedZero_eq_ok, unused_eq_ok, fSelector_eq_ok, Fields.ext_iff,
    Except.ok.injEq]
  grind

theorem destPSrcPP_eq_ok {c : PReg → PReg → PReg → Instr} :
    destPSrcPP f c = .ok i ↔ ∃ d a b, i = c d a b ∧ f = ⟨f.op, d.selector, a.selector, b.selector, 0#12⟩ := by
  simp only [destPSrcPP, bind_eq_ok, reservedZero_eq_ok, pSelector_eq_ok, Fields.ext_iff, Except.ok.injEq]
  grind

end

/-! ## The decoder and the encoder -/

theorem decodeFields_fields (i : Instr) : decodeFields i.fields = .ok i := by
  cases i with
  | nop | dominit => rfl
  | pldg d => exact destP_eq_ok.mpr ⟨d, rfl, rfl⟩
  | pisid a => exact srcP_eq_ok.mpr ⟨a, rfl, rfl⟩
  | peq a b | psxdy a b => exact srcPP_eq_ok.mpr ⟨a, b, rfl, rfl⟩
  | fcmp a b => exact srcFF_eq_ok.mpr ⟨a, b, rfl, rfl⟩
  | pneg d a | pred d a | pdbl d a | pmul d a => exact destPSrcP_eq_ok.mpr ⟨d, a, rfl, rfl⟩
  | fred d a | fneg d a | finv d a => exact destFSrcF_eq_ok.mpr ⟨d, a, rfl, rfl⟩
  | padd d a b => exact destPSrcPP_eq_ok.mpr ⟨d, a, b, rfl, rfl⟩

/-- `OP` selects the shape, and a shape leaves no field free. -/
theorem fields_of_decodeFields {f : Fields} {i : Instr} (h : decodeFields f = .ok i) : i.fields = f := by
  unfold decodeFields at h
  split at h
  case h_1 hop | h_2 hop =>
    obtain ⟨rfl, hf⟩ := noOperands_eq_ok.mp h
    rw [hf, hop]
    rfl
  case h_3 hop =>
    obtain ⟨d, rfl, hf⟩ := destP_eq_ok.mp h
    rw [hf, hop]
    rfl
  case h_4 hop | h_5 hop =>
    obtain ⟨a, b, rfl, hf⟩ := srcPP_eq_ok.mp h
    rw [hf, hop]
    rfl
  case h_6 hop =>
    obtain ⟨a, rfl, hf⟩ := srcP_eq_ok.mp h
    rw [hf, hop]
    rfl
  case h_7 hop | h_11 hop | h_14 hop | h_15 hop =>
    obtain ⟨d, a, rfl, hf⟩ := destPSrcP_eq_ok.mp h
    rw [hf, hop]
    rfl
  case h_8 hop | h_9 hop | h_12 hop =>
    obtain ⟨d, a, rfl, hf⟩ := destFSrcF_eq_ok.mp h
    rw [hf, hop]
    rfl
  case h_10 hop =>
    obtain ⟨a, b, rfl, hf⟩ := srcFF_eq_ok.mp h
    rw [hf, hop]
    rfl
  case h_13 hop =>
    obtain ⟨d, a, b, rfl, hf⟩ := destPSrcPP_eq_ok.mp h
    rw [hf, hop]
    rfl
  case h_16 => cases h

theorem decode_encode (i : Instr) : decode (encode i) = .ok i := by
  rw [decode, encode, fieldsOf_word, decodeFields_fields]

theorem encode_of_decode {w : Word} {i : Instr} (h : decode w = .ok i) : encode i = w := by
  rw [encode, fields_of_decodeFields h, word_fieldsOf]

end Sys2Proof

namespace Sys2Proof.Machine

/-! ## The match and mask table -/

/-- The mask leaves free the two low bits of a selector that is used. -/
def selectorMask (used : Bool) : BitVec 4 := if used then 0xC#4 else 0xF#4

/-- The row of the commands with `OP` value `op` that use `RD`, `RA`, `RB` as `d`, `a`, `b` say (rule R93).
`exists_rowFor` ties it to the table. -/
def rowFor (op : BitVec 8) (d a b : Bool) : OpcodeRow where
  bits := Fields.word ⟨op, 0#4, 0#4, 0#4, 0#12⟩
  mask := Fields.word ⟨0xFF#8, selectorMask d, selectorMask a, selectorMask b, 0xFFF#12⟩

theorem exists_rowFor {r : OpcodeRow} (h : r ∈ opcodeRows) :
    ∃ op d a b, r = rowFor op d a b ∧ selectorsUsed op.toNat = some (d, a, b) := by
  have hrows : ∀ r ∈ opcodeRows, ∃ d a b, r = rowFor (fieldsOf r.bits).op d a b ∧
      selectorsUsed (fieldsOf r.bits).op.toNat = some (d, a, b) := by decide
  exact ⟨_, hrows r h⟩

theorem fieldsOf_and (v w : Word) :
    fieldsOf (v &&& w) = ⟨(fieldsOf v).op &&& (fieldsOf w).op, (fieldsOf v).rd &&& (fieldsOf w).rd,
      (fieldsOf v).ra &&& (fieldsOf w).ra, (fieldsOf v).rb &&& (fieldsOf w).rb, (fieldsOf v).z &&& (fieldsOf w).z⟩ := by
  simp only [fieldsOf, BitVec.extractLsb'_and]

theorem not_badSelector_of_mask {u : Bool} {v : BitVec 4} (h : v &&& selectorMask u = 0#4) :
    ¬ badSelector u v.toNat := by
  cases u
  · rw [badSelector_unused]
    revert v
    decide
  · rw [badSelector_used]
    revert v
    decide

/-- A word hit by a row has the row's `OP` and none of the faults of rule R94. -/
theorem legal_of_hit_rowFor {op : BitVec 8} {d a b : Bool} {w : Word} (h : (rowFor op d a b).hit w = true) :
    (fieldsOf w).op = op ∧ ¬ illegalFor (fieldsOf w) d a b := by
  have hfields := congrArg fieldsOf (beq_iff_eq.mp h)
  simp only [rowFor, fieldsOf_and, fieldsOf_word, Fields.mk.injEq] at hfields
  obtain ⟨hop, hd, ha, hb, hz⟩ := hfields
  refine ⟨by rw [← hop]; exact (BitVec.and_allOnes (x := (fieldsOf w).op)).symm, ?_⟩
  rintro (hz' | hd' | ha' | hb')
  · rw [show (0xFFF#12) = BitVec.allOnes 12 from rfl, BitVec.and_allOnes] at hz
    exact hz' (by rw [hz]; rfl)
  · exact not_badSelector_of_mask hd hd'
  · exact not_badSelector_of_mask ha ha'
  · exact not_badSelector_of_mask hb hb'

theorem exists_decode_of_hit {r : OpcodeRow} {w : Word} (hr : r ∈ opcodeRows) (h : r.hit w = true) :
    ∃ i, decode w = .ok i := by
  obtain ⟨op, d, a, b, rfl, hused⟩ := exists_rowFor hr
  obtain ⟨rfl, hlegal⟩ := legal_of_hit_rowFor h
  have hrefuses : ¬ refuses (decode w) := by
    rw [refuses_decode_iff, illegalNumber_iff_of_assigned hused]
    exact hlegal
  cases hd : decode w with
  | error e => exact absurd ⟨e, hd⟩ hrefuses
  | ok i => exact ⟨i, rfl⟩

/-- Two rows that hit one word have its `OP`, and `OP` fixes the selectors used. -/
theorem row_unique {r q : OpcodeRow} {w : Word} (hr : r ∈ opcodeRows) (hq : q ∈ opcodeRows) (hrw : r.hit w = true)
    (hqw : q.hit w = true) : r = q := by
  obtain ⟨op, d, a, b, rfl, hused⟩ := exists_rowFor hr
  obtain ⟨op', d', a', b', rfl, hused'⟩ := exists_rowFor hq
  obtain ⟨rfl, -⟩ := legal_of_hit_rowFor hrw
  obtain ⟨rfl, -⟩ := legal_of_hit_rowFor hqw
  rw [hused] at hused'
  cases hused'
  rfl

theorem row_mem_opcodeRows (i : Instr) : i.row ∈ opcodeRows := by
  cases i <;> simp [Instr.row, opcodeRows]

/-- The rows' family, over all commands. -/
theorem row_hit_encode (i : Instr) : i.row.hit (encode i) = true := by
  cases i with
  | nop => exact Laws.MatchesRow.nop
  | dominit => exact Laws.MatchesRow.dominit
  | pldg d => exact Laws.MatchesRow.pldg d
  | peq a b => exact Laws.MatchesRow.peq a b
  | psxdy a b => exact Laws.MatchesRow.psxdy a b
  | pisid a => exact Laws.MatchesRow.pisid a
  | pneg d a => exact Laws.MatchesRow.pneg d a
  | fred d a => exact Laws.MatchesRow.fred d a
  | fneg d a => exact Laws.MatchesRow.fneg d a
  | fcmp a b => exact Laws.MatchesRow.fcmp a b
  | pred d a => exact Laws.MatchesRow.pred d a
  | finv d a => exact Laws.MatchesRow.finv d a
  | padd d a b => exact Laws.MatchesRow.padd d a b
  | pdbl d a => exact Laws.MatchesRow.pdbl d a
  | pmul d a => exact Laws.MatchesRow.pmul d a

/-! ## The statements -/

/-- Settles O2: a word keeps its fields, and the shape of the command accepts the command's fields. -/
theorem decodeOfEncode : Obligations.DecodeOfEncode := by
  unfold Obligations.DecodeOfEncode
  exact decode_encode

/-- Settles O3: what decodes has the fields of its command (`fields_of_decodeFields`), and the fields make the word. -/
theorem encodeOfDecode : Obligations.EncodeOfDecode := by
  unfold Obligations.EncodeOfDecode
  intro w i h
  exact encode_of_decode h

/-- Settles O5: a row fixes `OP` and shuts out exactly the faults of rule R94 (`legal_of_hit_rowFor`). -/
theorem opcodeTableAgrees : Obligations.OpcodeTableAgrees := by
  unfold Obligations.OpcodeTableAgrees
  refine ⟨?_, ?_, ?_⟩
  · intro w i h
    obtain rfl := encode_of_decode h
    exact ⟨row_mem_opcodeRows i, row_hit_encode i⟩
  · intro w h
    obtain ⟨r, hr, hrw⟩ := List.any_eq_true.mp h
    exact exists_decode_of_hit hr hrw
  · intro w r hr q hq hrw hqw
    exact row_unique hr hq hrw hqw

/-- Settles O1: each word is the encoding of its command. -/
theorem specWordsDecode : Obligations.SpecWordsDecode := by
  unfold Obligations.SpecWordsDecode
  exact ⟨decode_encode (.padd .p0 .p1 .p2), decode_encode (.pdbl .p3 .p3), decode_encode (.pmul .p0 .p1),
    decode_encode (.finv .f1 .f0), decode_encode (.pneg .p2 .p2), decode_encode (.peq .p1 .p2),
    decode_encode (.pldg .p1), decode_encode .dominit, decode_encode .nop⟩

end Sys2Proof.Machine
end

section
/-! SUPPORT. The frame family: which registers a command's effect writes, and that a completion changes nothing else,
seen as registers and as bytes of the window (spec/40_domain_point.md rule R110). -/

namespace Sys2Proof.Machine

/-! ## What an effect leaves alone -/

/-- The wide registers a command writes (rule R93, column `RD`). -/
def destinations : Instr → List DataReg
  | .pldg rd | .pneg rd _ | .pred rd _ | .padd rd _ _ | .pdbl rd _ | .pmul rd _ => [.px rd, .py rd]
  | .fred rd _ | .fneg rd _ | .finv rd _ => [.f rd]
  | .nop | .dominit | .peq _ _ | .psxdy _ _ | .pisid _ | .fcmp _ _ => []

/-- The commands that write a flag (rule R38). -/
def compares : Instr → Bool
  | .peq _ _ | .psxdy _ _ | .pisid _ | .fcmp _ _ => true
  | .nop | .dominit | .pldg _ | .pneg _ _ | .fred _ _ | .fneg _ _ | .pred _ _ | .finv _ _ | .padd _ _ _ | .pdbl _ _
  | .pmul _ _ => false

section
variable {s t u : State} {i : Instr}

theorem State.dataReg_setPoint_of_notMem (s : State) {rd : PReg} (v : Point) {r : DataReg}
    (h : r ∉ [DataReg.px rd, .py rd]) : (s.setPoint rd v).dataReg r = s.dataReg r := by
  simp only [List.mem_cons, List.not_mem_nil, or_false, not_or] at h
  rw [State.dataReg_setPoint, if_neg h.1, if_neg h.2]

theorem State.dataReg_setField_of_notMem (s : State) {rd : FReg} (v : Nat) {r : DataReg} (h : r ∉ [DataReg.f rd]) :
    (s.setField rd v).dataReg r = s.dataReg r := by
  rw [State.dataReg_setField, if_neg (by simpa using h)]

theorem Effect.dataReg_eq (h : Effect s i u) {r : DataReg} (hr : r ∉ destinations i) : u.dataReg r = s.dataReg r := by
  cases h with
  | nop | dominit | peq | psxdy | pisid | fcmp => rfl
  | pldg | pneg | pred | padd | pdbl | pmul => exact State.dataReg_setPoint_of_notMem _ _ hr
  | fred | fneg | finv => exact State.dataReg_setField_of_notMem _ _ hr

theorem Effect.keepsControl (h : Effect s i u) : keepsControl s u := by
  cases h <;> simp [Machine.keepsControl]

theorem Effect.flags_eq (h : Effect s i u) (hi : compares i = false) : u.flags = s.flags := by
  cases h
  case peq | psxdy | pisid | fcmp => cases hi
  all_goals simp

theorem Effect.domv_eq (h : Effect s i u) (hi : i ≠ .dominit) : u.status.domv = s.status.domv := by
  cases h
  case dominit => exact absurd rfl hi
  all_goals simp

/-! ## What a completion leaves alone -/

theorem exec_eq_next (h : exec i s = .next t) :
    (∃ u, Effect s i u ∧ t = u.succeed) ∨ ∃ e, Raises s i e ∧ t = s.takeError e := by
  rcases exec_next_cases i s with ⟨u, heff, hexec⟩ | ⟨e, hraise, hexec⟩
  · exact .inl ⟨u, heff, Host.Outcome.next.inj (h.symm.trans hexec)⟩
  · exact .inr ⟨e, hraise, Host.Outcome.next.inj (h.symm.trans hexec)⟩

theorem exec_dataReg_eq (h : exec i s = .next t) {r : DataReg} (hr : r ∉ destinations i) :
    t.dataReg r = s.dataReg r := by
  rcases exec_eq_next h with ⟨u, heff, rfl⟩ | ⟨e, -, rfl⟩
  · rw [State.succeed_dataReg, heff.dataReg_eq hr]
  · rw [State.takeError_dataReg]

theorem exec_keepsControl (h : exec i s = .next t) : keepsControl s t := by
  rcases exec_eq_next h with ⟨u, heff, rfl⟩ | ⟨e, -, rfl⟩
  · exact heff.keepsControl
  · exact ⟨rfl, rfl, rfl, rfl, rfl⟩

theorem exec_flags_eq (h : exec i s = .next t) (hi : compares i = false) : t.flags = s.flags := by
  rcases exec_eq_next h with ⟨u, heff, rfl⟩ | ⟨e, -, rfl⟩
  · exact heff.flags_eq hi
  · rfl

theorem exec_domv_eq (h : exec i s = .next t) (hi : i ≠ .dominit) : t.status.domv = s.status.domv := by
  rcases exec_eq_next h with ⟨u, heff, rfl⟩ | ⟨e, -, rfl⟩
  · exact heff.domv_eq hi
  · rfl

/-- Only `InvalidCurveParameter` sets `FATAL`, and only `DOMINIT` raises it (rules R181, R187). -/
theorem exec_fatal_eq (h : exec i s = .next t) (hi : i ≠ .dominit) : t.status.fatal = s.status.fatal := by
  rcases exec_eq_next h with ⟨u, heff, rfl⟩ | ⟨e, hraise, rfl⟩
  · exact heff.fatal_eq
  · have he : e ≠ .invalidCurveParameter := by
      rintro rfl
      exact hi (raises_invalidCurveParameter_iff.mp hraise).1
    simp [he]

/-- A command that can raise nothing leaves `ESTICKY`. -/
theorem exec_esticky_eq (h : exec i s = .next t) (hi : ∀ e, ¬ Raises s i e) : t.esticky = s.esticky := by
  rcases exec_eq_next h with ⟨u, heff, rfl⟩ | ⟨e, hraise, -⟩
  · exact heff.esticky_eq
  · exact absurd hraise (hi e)

theorem not_raises_of_compares (hi : compares i = true) (e : ErrorCode) : ¬ Raises s i e := by
  intro hraise
  cases hraise with
  | invalidCurve | locked => cases hi
  | notValid hn _ | noInverse hn _ =>
    cases i
    case peq | psxdy | pisid | fcmp => cases hn
    all_goals cases hi

theorem not_raises_nop (e : ErrorCode) : ¬ Raises s .nop e := by
  intro hraise
  cases hraise with
  | notValid hn _ | noInverse hn _ => cases hn

end

/-! ## The bytes of the window -/

theorem controlReg_ne_of_mem {off : Nat} (h : off ∈ controlOffsets) :
    (∀ r n, controlReg off ≠ .data r n) ∧ controlReg off ≠ .reserved := by
  simp only [controlOffsets, List.mem_cons, List.not_mem_nil, or_false] at h
  rcases h with rfl | rfl | rfl | rfl | rfl | rfl | rfl | rfl | rfl <;> simp [controlReg]

/-- A control register lies at its own offset only (rule R31). -/
theorem eq_of_locate_control {c : Config} {off off' : Nat} (hoff' : off' ∈ controlOffsets)
    (h : locate c off = controlReg off') : off = off' := by
  have hinj : ∀ a ∈ controlOffsets, ∀ b ∈ controlOffsets, controlReg a = controlReg b → a = b := by decide
  obtain ⟨hdata, hres⟩ := controlReg_ne_of_mem hoff'
  have hreg : controlReg off = controlReg off' := controlReg_eq_of_locate h hdata hres
  have hoff : off ∈ controlOffsets := by
    by_contra hn
    exact hres (hreg.symm.trans (controlReg_of_not_mem hn))
  exact hinj off hoff off' hoff' hreg

/-- A byte reads the same in two states that agree on the register it lies in: a byte outside the slots that were
written, outside the outcome registers, and outside `FLAGS` when a flag was written. -/
theorem readByte_eq {s t : State} {slots : List DataReg} {off : Nat} (hcfg : t.cfg = s.cfg) (hcmd : t.cmd = s.cmd)
    (hdata : ∀ r ∉ slots, t.dataReg r = s.dataReg r) (hflags : 0x1C ≤ off → off < 0x20 → t.flags = s.flags)
    (hout : outside slots off) : t.readByte off = s.readByte off := by
  obtain ⟨hstatus, hslots⟩ := hout
  have hword : t.readWord (off - off % 4) = s.readWord (off - off % 4) := by
    rw [State.readWord, State.readWord, hcfg]
    cases hl : locate s.cfg (off - off % 4) with
    | id | version | ctrl | reserved => rfl
    | cfg => exact congrArg Config.word hcfg
    | cmd => exact hcmd
    | status =>
      have hoff := eq_of_locate_control (off' := 0x10) (by decide) hl
      omega
    | errcode =>
      have hoff := eq_of_locate_control (off' := 0x14) (by decide) hl
      omega
    | esticky =>
      have hoff := eq_of_locate_control (off' := 0x18) (by decide) hl
      omega
    | flags =>
      have hoff := eq_of_locate_control (off' := 0x1C) (by decide) hl
      exact congrArg Flags.word (hflags (by omega) (by omega))
    | data r n =>
      obtain ⟨-, hlow, htop, -⟩ := locate_eq_data hl
      have hmod := r.slot_mod
      have hr : r ∉ slots := fun hmem => hslots r hmem ⟨by omega, by omega⟩
      exact congrArg (wordOf · n) (hdata r hr)
  rw [State.readByte, State.readByte, hword]

theorem exec_readByte_eq {s t : State} {i : Instr} {off : Nat} (h : exec i s = .next t)
    (hflags : 0x1C ≤ off → off < 0x20 → compares i = false) (hout : outside (destinations i) off) :
    t.readByte off = s.readByte off := by
  obtain ⟨hcfg, -, hcmd, -, -⟩ := exec_keepsControl h
  exact readByte_eq hcfg hcmd (fun r hr => exec_dataReg_eq h hr)
    (fun hlow htop => exec_flags_eq h (hflags hlow htop)) hout

/-- What the frames of the commands with a destination share. -/
theorem exec_frame {s t : State} {i : Instr} (h : exec i s = .next t) (hc : compares i = false) (hd : i ≠ .dominit) :
    t.flags = s.flags ∧ t.status.domv = s.status.domv ∧ t.status.fatal = s.status.fatal ∧ keepsControl s t ∧
      ∀ off, outside (destinations i) off → t.readByte off = s.readByte off :=
  ⟨exec_flags_eq h hc, exec_domv_eq h hd, exec_fatal_eq h hd, exec_keepsControl h,
    fun _ hout => exec_readByte_eq h (fun _ _ => hc) hout⟩

/-! ## The statements -/

/-- Settles O56: `F[RD]` is the only destination of the three. -/
theorem fieldCommandsFrame : Obligations.FieldCommandsFrame := by
  unfold Obligations.FieldCommandsFrame
  intro s t rd ra i hi h
  have hdest : destinations i = [.f rd] ∧ compares i = false ∧ i ≠ .dominit := by
    simp only [List.mem_cons, List.not_mem_nil, or_false] at hi
    rcases hi with rfl | rfl | rfl <;> exact ⟨rfl, rfl, by simp⟩
  obtain ⟨hdest, hc, hd⟩ := hdest
  refine ⟨?_, hdest ▸ exec_frame h hc hd⟩
  intro r hr
  exact exec_dataReg_eq h (by simpa [hdest] using hr)

/-- Settles O57: the two coordinates of `P[RD]` are the only destinations of the six. -/
theorem pointCommandsFrame : Obligations.PointCommandsFrame := by
  unfold Obligations.PointCommandsFrame
  intro s t rd ra rb i hi h
  have hdest : destinations i = [.px rd, .py rd] ∧ compares i = false ∧ i ≠ .dominit := by
    simp only [List.mem_cons, List.not_mem_nil, or_false] at hi
    rcases hi with rfl | rfl | rfl | rfl | rfl | rfl <;> exact ⟨rfl, rfl, by simp⟩
  obtain ⟨hdest, hc, hd⟩ := hdest
  refine ⟨?_, hdest ▸ exec_frame h hc hd⟩
  intro r hx hy
  exact exec_dataReg_eq h (by simp [hdest, hx, hy])

/-- Settles O58: neither the compares nor `NOP` and `DOMINIT` have a destination, and the compares and `NOP` raise
nothing. -/
theorem systemAndCompareFrame : Obligations.SystemAndCompareFrame := by
  unfold Obligations.SystemAndCompareFrame
  intro s t i h
  refine ⟨?_, ?_⟩
  · intro hi
    have hdest : destinations i = [] ∧ compares i = true ∧ i ≠ .dominit := by
      rcases hi with ⟨ra, rb, rfl⟩ | ⟨ra, rb, rfl⟩ | ⟨ra, rfl⟩ | ⟨ra, rb, rfl⟩ <;> exact ⟨rfl, rfl, by simp⟩
    obtain ⟨hdest, hc, hd⟩ := hdest
    refine ⟨fun r => exec_dataReg_eq h (by simp [hdest]), exec_domv_eq h hd, exec_fatal_eq h hd,
      exec_esticky_eq h (not_raises_of_compares hc), exec_keepsControl h, ?_⟩
    intro off hout hflags
    exact exec_readByte_eq h (fun hlow htop => absurd ⟨hlow, htop⟩ hflags) (hdest ▸ hout)
  · intro hi
    have hdest : destinations i = [] ∧ compares i = false := by
      rcases hi with rfl | rfl <;> exact ⟨rfl, rfl⟩
    obtain ⟨hdest, hc⟩ := hdest
    refine ⟨fun r => exec_dataReg_eq h (by simp [hdest]), exec_flags_eq h hc, exec_keepsControl h, ?_, ?_⟩
    · rintro rfl
      exact ⟨exec_domv_eq h (by simp), exec_fatal_eq h (by simp), exec_esticky_eq h not_raises_nop⟩
    · intro off hout
      exact exec_readByte_eq h (fun _ _ => hc) (hdest ▸ hout)

end Sys2Proof.Machine
end

section
/-! SUPPORT. The range family: normalised results are below the modulus and every other result is an operand, so
operands below a bound that the modulus does not exceed give results below it. With the bound `p` this is rule R156, with
the bound `2 ^ W` it is that results fit their registers (rule R9). -/

namespace Sys2Proof.Machine

section
variable {p a k B : Nat} {P Q R : Point}

theorem Point.reduced_ident (hp : 0 < p) : Point.ident.reduced p := ⟨hp, hp⟩

theorem Point.reduced_of_le (hB : p ≤ B) (h : P.reduced p) : P.reduced B :=
  ⟨h.1.trans_le hB, h.2.trans_le hB⟩

theorem negate_reduced (hp : 0 < p) (hB : p ≤ B) (hP : P.reduced B) : (P.negate p).reduced B :=
  ⟨hP.1, (normP_lt hp _).trans_le hB⟩

theorem reduce_reduced (hp : 0 < p) (P : Point) : (P.reduce p).reduced p := ⟨normP_lt hp P.x, normP_lt hp P.y⟩

theorem inverse_lt {v : Int} {x : Nat} (hp : 0 < p) (h : inverse p v = .ok x) : x < p := by
  rcases inverse_spec hp v with ⟨herr, -⟩ | ⟨y, hok, -, hlt, -⟩
  · simp [h] at herr
  · obtain rfl : x = y := by simpa [h] using hok
    exact hlt

theorem dbl_reduced (hp : 0 < p) (h : dbl p a P = .ok R) : R.reduced p := by
  rcases dbl_eq_ok h with ⟨-, rfl⟩ | ⟨-, inv, slope, -, -, hx, hy⟩
  · exact Point.reduced_ident hp
  · exact ⟨hx ▸ normP_lt hp _, hy ▸ normP_lt hp _⟩

theorem addGeneral_reduced (hp : 0 < p) (h : addGeneral p P Q = .ok R) : R.reduced p := by
  simp only [addGeneral] at h
  split at h
  · cases h
  · cases h
    exact ⟨normP_lt hp _, normP_lt hp _⟩

theorem add_reduced (hp : 0 < p) (hB : p ≤ B) (hP : P.reduced B) (hQ : Q.reduced B) (h : add p a P Q = .ok R) :
    R.reduced B := by
  cases add_cases p a P Q with
  | same _ hadd => exact Point.reduced_of_le hB (dbl_reduced hp (hadd ▸ h))
  | opposite _ _ hadd =>
    obtain rfl := Except.ok.inj (hadd.symm.trans h)
    exact Point.reduced_of_le hB (Point.reduced_ident hp)
  | left _ _ hadd =>
    obtain rfl := Except.ok.inj (hadd.symm.trans h)
    exact hQ
  | right _ _ hadd =>
    obtain rfl := Except.ok.inj (hadd.symm.trans h)
    exact hP
  | general _ _ _ hadd => exact Point.reduced_of_le hB (addGeneral_reduced hp (hadd ▸ h))

/-! ## The multiplier's loop -/

theorem bitPass_eq_ok {m n : Point × Point} {b : Bool} :
    bitPass p a m b = .ok n ↔
      (if b then add p a m.1 m.2 else .ok m.1) = .ok n.1 ∧ dbl p a m.2 = .ok n.2 := by
  obtain ⟨r, q⟩ := n
  cases b
  · simp [bitPass, bind_eq_ok, and_comm]
  · simp [bitPass, bind_eq_ok]

theorem bitPass_reduced {m n : Point × Point} {b : Bool} (hp : 0 < p) (hB : p ≤ B)
    (hm : m.1.reduced B ∧ m.2.reduced B) (h : bitPass p a m b = .ok n) : n.1.reduced B ∧ n.2.reduced B := by
  obtain ⟨hadd, hdbl⟩ := bitPass_eq_ok.mp h
  refine ⟨?_, Point.reduced_of_le hB (dbl_reduced hp hdbl)⟩
  cases b with
  | false =>
    rw [← Except.ok.inj hadd]
    exact hm.1
  | true => exact add_reduced hp hB hm.1 hm.2 hadd

theorem foldlM_bitPass_reduced {bs : List Bool} {m n : Point × Point} (hp : 0 < p) (hB : p ≤ B)
    (hm : m.1.reduced B ∧ m.2.reduced B) (h : bs.foldlM (bitPass p a) m = .ok n) : n.1.reduced B ∧ n.2.reduced B := by
  induction bs generalizing m with
  | nil =>
    obtain rfl := Except.ok.inj h
    exact hm
  | cons b bs ih =>
    rw [List.foldlM_cons] at h
    obtain ⟨q, hpass, hrest⟩ := bind_eq_ok.mp h
    exact ih (bitPass_reduced hp hB hm hpass) hrest

theorem map_fst_eq_ok {x : Except ErrorCode (Point × Point)} (h : x.map Prod.fst = .ok R) : ∃ A, x = .ok (R, A) := by
  cases x with
  | error e => cases h
  | ok m =>
    cases h
    exact ⟨m.2, rfl⟩

theorem mul_reduced (hp : 0 < p) (hB : p ≤ B) (hP : P.reduced B) (h : mul p a k P = .ok R) : R.reduced B := by
  obtain ⟨A, hfold⟩ := map_fst_eq_ok (mul_eq_foldlM p a k P ▸ h)
  exact (foldlM_bitPass_reduced hp hB ⟨Point.reduced_of_le hB (Point.reduced_ident hp), hP⟩ hfold).1

end

/-! ## The statements -/

/-- Settles O50: the bound is the modulus itself. -/
theorem reducedOperandsGiveReducedResults : Obligations.ReducedOperandsGiveReducedResults := by
  unfold Obligations.ReducedOperandsGiveReducedResults
  intro p a k P Q R hp hP hQ
  exact ⟨negate_reduced hp.pos le_rfl hP, dbl_reduced hp.pos, add_reduced hp.pos le_rfl hP hQ,
    mul_reduced hp.pos le_rfl hP⟩

end Sys2Proof.Machine
end

section
/-! SUPPORT. The invariant family: what a step does to the registers, seen as five kinds (`BlockCase`), and that each
keeps the invariant, a valid domain and the flags (spec/10_state.md rules R22, R23, R35, R38; spec/60_exceptions.md rule
R187). -/

namespace Sys2Proof.Machine

/-! ## A step, by what it does to the registers -/

@[simp] theorem afterTurn_flags (s : State) : (afterTurn s).flags = s.flags := rfl

@[simp] theorem State.setDataReg_cfg (s : State) (r : DataReg) (v : Nat) : (s.setDataReg r v).cfg = s.cfg := by
  cases r <;> simp [State.setDataReg]

@[simp] theorem State.setDataReg_flags (s : State) (r : DataReg) (v : Nat) : (s.setDataReg r v).flags = s.flags := by
  cases r <;> simp [State.setDataReg]

/-- The step changes nothing but the schedule, the host's last read, `CMD`, `ERRCODE` and `BUSY`, `DONE`, `ERR`, `WIGN`;
it records no error. -/
structure KeepsBlock (s t : State) : Prop where
  cfg : t.cfg = s.cfg
  dataReg : ∀ r, t.dataReg r = s.dataReg r
  domv : t.status.domv = s.status.domv
  fatal : t.status.fatal = s.status.fatal
  esticky : t.esticky = s.esticky
  flags : t.flags = s.flags
  errcode : t.errcode = s.errcode ∨ t.errcode = none

/-- `StepKind` with the steps that leave the registers alone in one. -/
inductive BlockCase (s t : State) : Prop where
  | reset : s.nextResets = true → t = (afterTurn s).resetBlock → BlockCase s t
  | success (i u) : s.coreNext = true → s.status.busy = true → decode s.cmd = .ok i → Effect (afterTurn s) i u →
      t = u.succeed → BlockCase s t
  | error (e) : s.coreNext = true → s.status.busy = true → completionRaises (afterTurn s) e →
      t = (afterTurn s).takeError e → BlockCase s t
  | data (r n v) : n < r.words s.cfg → (r.isDomain = true → s.status.domv = false) →
      t = (afterTurn s).setDataReg r (replaceWord (s.dataReg r) n v) → BlockCase s t
  | quiet : KeepsBlock s t → BlockCase s t

theorem StepKind.blockCase {s t : State} (h : StepKind s t) : BlockCase s t := by
  cases h with
  | reset hr ht => exact .reset hr ht
  | success i u hc hb hd heff ht => exact .success i u hc hb hd heff ht
  | error e hc hb hx ht => exact .error e hc hb hx ht
  | data off v r n hw hl hb hd ht => exact .data r n v (locate_eq_data hl).1 hd ht
  | idle hc hb ht => exact .quiet (ht ▸ ⟨rfl, fun _ => rfl, rfl, rfl, rfl, rfl, .inl rfl⟩)
  | read off hr ht => exact .quiet (ht ▸ ⟨rfl, fun _ => rfl, rfl, rfl, rfl, rfl, .inl rfl⟩)
  | issue v hw hb hf ht => exact .quiet (ht ▸ ⟨rfl, fun _ => rfl, rfl, rfl, rfl, rfl, .inr rfl⟩)
  | clear v hw ht => exact .quiet (ht ▸ ⟨rfl, fun _ => rfl, rfl, rfl, rfl, rfl, .inl rfl⟩)
  | ignored off v hw ht => exact .quiet (ht ▸ ⟨rfl, fun _ => rfl, rfl, rfl, rfl, rfl, .inl rfl⟩)
  | nothing off v hw ht => exact .quiet (ht ▸ ⟨rfl, fun _ => rfl, rfl, rfl, rfl, rfl, .inl rfl⟩)

theorem blockCase_of_step {s t : State} (h : step s = .next t) : BlockCase s t := (stepKind_of_step h).blockCase

/-! ## Registers stay within their widths (rule R9) -/

def InRange (s : State) : Prop := ∀ r : DataReg, s.dataReg r < 2 ^ r.width s.cfg

theorem InRange.of_eq {s t : State} (h : InRange s) (hcfg : t.cfg = s.cfg) (hdata : ∀ r, t.dataReg r = s.dataReg r) :
    InRange t := by
  intro r
  rw [hdata, hcfg]
  exact h r

theorem InRange.point {s : State} (h : InRange s) (r : PReg) : (s.point r).reduced (2 ^ s.cfg.w) :=
  ⟨h (.px r), h (.py r)⟩

theorem InRange.setPoint {s : State} (h : InRange s) (rd : PReg) {v : Point} (hv : v.reduced (2 ^ s.cfg.w)) :
    InRange (s.setPoint rd v) := by
  intro r
  rw [State.dataReg_setPoint, State.setPoint_cfg]
  split_ifs with hx hy
  · exact hx ▸ hv.1
  · exact hy ▸ hv.2
  · exact h r

theorem InRange.setField {s : State} (h : InRange s) (rd : FReg) {v : Nat} (hv : v < 2 ^ s.cfg.w) :
    InRange (s.setField rd v) := by
  intro r
  rw [State.dataReg_setField, State.setField_cfg]
  split_ifs with hf
  · exact hf ▸ hv
  · exact h r

theorem InRange.setDataReg {s : State} (h : InRange s) {r : DataReg} {v : Nat} (hv : v < 2 ^ r.width s.cfg) :
    InRange (s.setDataReg r v) := by
  intro q
  rw [State.dataReg_setDataReg, State.setDataReg_cfg]
  split_ifs with hq
  · exact hq ▸ hv
  · exact h q

theorem InRange.resetBlock (s : State) : InRange s.resetBlock := by
  intro r
  rw [State.resetBlock_dataReg]
  positivity

/-- A result is below the modulus or is an operand, and both fit. -/
theorem Effect.inRange {s u : State} {i : Instr} (h : Effect s i u) (hs : InRange s)
    (hp : s.status.domv = true → 0 < s.dp) : InRange u := by
  have hB : s.dp ≤ 2 ^ s.cfg.w := (hs .dp).le
  cases h with
  | nop | dominit | peq | psxdy | pisid | fcmp => exact hs.of_eq rfl fun _ => rfl
  | pldg rd hv => exact hs.setPoint rd ⟨hs .dgx, hs .dgy⟩
  | pneg rd ra hv => exact hs.setPoint rd (negate_reduced (hp hv) hB (hs.point ra))
  | pred rd ra hv => exact hs.setPoint rd (Point.reduced_of_le hB (reduce_reduced (hp hv) _))
  | padd rd ra rb r hv hr => exact hs.setPoint rd (add_reduced (hp hv) hB (hs.point ra) (hs.point rb) hr)
  | pdbl rd ra r hv hr => exact hs.setPoint rd (Point.reduced_of_le hB (dbl_reduced (hp hv) hr))
  | pmul rd ra r hv hr => exact hs.setPoint rd (mul_reduced (hp hv) hB (hs.point ra) hr)
  | fred rd ra hv | fneg rd ra hv => exact hs.setField rd ((normP_lt (hp hv) _).trans_le hB)
  | finv rd ra x hv hr => exact hs.setField rd ((inverse_lt (hp hv) hr).trans_le hB)

theorem InRange.step {s t : State} (h : InRange s) (hwf : s.cfg.wellFormed = true)
    (hp : s.status.domv = true → 0 < s.dp) (hk : BlockCase s t) : InRange t := by
  have hs : InRange (afterTurn s) := h.of_eq rfl fun _ => rfl
  cases hk with
  | reset hr ht => exact ht ▸ .resetBlock _
  | success i u hc hb hd heff ht => exact ht ▸ (heff.inRange hs hp).of_eq rfl fun _ => State.succeed_dataReg ..
  | error e hc hb hx ht => exact ht ▸ hs.of_eq rfl fun _ => State.takeError_dataReg ..
  | data r n v hn hd ht =>
    refine ht ▸ hs.setDataReg ?_
    have hlt := h r
    rw [r.width_eq s.cfg hwf] at hlt
    rw [afterTurn_cfg, r.width_eq s.cfg hwf]
    exact replaceWord_lt v hn hlt
  | quiet hq => exact h.of_eq hq.cfg hq.dataReg

/-! ## The domain (rules R22, R23) -/

theorem isDomain_of_mem_destinations {i : Instr} {r : DataReg} (h : r ∈ destinations i) : r.isDomain = false := by
  cases i with
  | nop | dominit | peq | psxdy | pisid | fcmp => cases h
  | pldg | pneg | pred | padd | pdbl | pmul => obtain rfl | rfl := List.mem_pair.mp h <;> rfl
  | fred | fneg | finv => obtain rfl := List.mem_singleton.mp h; rfl

/-- No command writes a domain register. -/
theorem Effect.domainReg_eq {s u : State} {i : Instr} (h : Effect s i u) {r : DataReg} (hr : r ∈ domainRegs) :
    u.dataReg r = s.dataReg r :=
  h.dataReg_eq fun hmem =>
    absurd (isDomain_of_mem_destinations hmem) (by rw [DataReg.isDomain_iff.mpr hr]; decide)

/-- An accepted data write finds a valid domain only when it goes elsewhere (rule R66). -/
theorem State.setDataReg_domainReg_eq {s : State} {r q : DataReg} {v : Nat}
    (hd : r.isDomain = true → s.status.domv = false) (hv : s.status.domv = true) (hq : q ∈ domainRegs) :
    (s.setDataReg r v).dataReg q = s.dataReg q := by
  have hne : q ≠ r := by
    rintro rfl
    rw [hd (DataReg.isDomain_iff.mpr hq)] at hv
    cases hv
  rw [State.dataReg_setDataReg, if_neg hne]

/-- An effect keeps `DOMV`, or it is the success of `DOMINIT`. -/
theorem Effect.domv_cases {s u : State} {i : Instr} (h : Effect s i u) :
    u.status.domv = s.status.domv ∨
      (i = .dominit ∧ u.status.domv = true ∧ Nat.Prime s.dp ∧ s.db % s.dp ≠ 0) := by
  by_cases hi : i = .dominit
  · subst hi
    cases h with
    | dominit hn hp hb => exact .inr ⟨rfl, rfl, (isPrime_iff _).mp hp, hb⟩
  · exact .inl (h.domv_eq hi)

/-- Rule R22: without a reset a valid domain stays valid, and its registers stay. -/
theorem BlockCase.domain_frozen {s t : State} (h : BlockCase s t) (hv : s.status.domv = true)
    (hn : s.nextResets = false) : t.status.domv = true ∧ ∀ r ∈ domainRegs, t.dataReg r = s.dataReg r := by
  cases h with
  | reset hr ht => simp [hn] at hr
  | success i u hc hb hd heff ht =>
    subst ht
    refine ⟨?_, fun r hr => by rw [State.succeed_dataReg, heff.domainReg_eq hr, afterTurn_dataReg]⟩
    rcases heff.domv_cases with hdomv | ⟨-, hdomv, -⟩
    · exact hdomv.trans hv
    · exact hdomv
  | error e hc hb hx ht =>
    subst ht
    exact ⟨hv, fun r _ => State.takeError_dataReg ..⟩
  | data r n v hlt hd ht =>
    subst ht
    exact ⟨by simpa using hv, fun q hq => State.setDataReg_domainReg_eq (s := afterTurn s) hd hv hq⟩
  | quiet hq => exact ⟨hq.domv.trans hv, fun r _ => hq.dataReg r⟩

/-- `DOMV` rises only in the success of `DOMINIT`. -/
theorem BlockCase.domv_rises {s t : State} (h : BlockCase s t) (hn : s.status.domv = false)
    (hv : t.status.domv = true) :
    s.status.busy = true ∧ s.coreNext = true ∧ decode s.cmd = .ok .dominit ∧ Nat.Prime s.dp ∧
      s.db % s.dp ≠ 0 := by
  cases h with
  | reset hr ht => simp [ht] at hv
  | success i u hc hb hd heff ht =>
    subst ht
    rcases heff.domv_cases with hdomv | ⟨rfl, -, hp, hdb⟩
    · simp [hdomv, hn] at hv
    · exact ⟨hb, hc, hd, hp, hdb⟩
  | error e hc hb hx ht => simp [ht, hn] at hv
  | data r n v hlt hd ht => simp [ht, hn] at hv
  | quiet hq => simp [hq.domv, hn] at hv

/-- A valid domain passed its check, and its registers are those that passed (rule R23). -/
theorem BlockCase.domain_checked {s t : State} (h : BlockCase s t)
    (hs : s.status.domv = true → Nat.Prime s.dp ∧ s.db % s.dp ≠ 0) (hv : t.status.domv = true) :
    Nat.Prime t.dp ∧ t.db % t.dp ≠ 0 := by
  have keeps (hdomain : ∀ r ∈ domainRegs, t.dataReg r = s.dataReg r) (hcheck : Nat.Prime s.dp ∧ s.db % s.dp ≠ 0) :
      Nat.Prime t.dp ∧ t.db % t.dp ≠ 0 := by
    have hp : t.dp = s.dp := hdomain .dp (by decide)
    have hb : t.db = s.db := hdomain .db (by decide)
    rwa [hp, hb]
  cases h with
  | reset hr ht => simp [ht] at hv
  | success i u hc hb hd heff ht =>
    subst ht
    refine keeps (fun r hr => (State.succeed_dataReg ..).trans (heff.domainReg_eq hr)) ?_
    rcases heff.domv_cases with hdomv | ⟨-, -, hcheck⟩
    · exact hs (hdomv.symm.trans hv)
    · exact hcheck
  | error e hc hb hx ht =>
    subst ht
    exact hs hv
  | data r n v hlt hd ht =>
    subst ht
    have hv' : s.status.domv = true := by simpa using hv
    exact keeps (fun q hq => State.setDataReg_domainReg_eq (s := afterTurn s) hd hv' hq) (hs hv')
  | quiet hq => exact keeps (fun r _ => hq.dataReg r) (hs (hq.domv.symm.trans hv))

/-- `FATAL` rises only in the completion of `DOMINIT` that finds the domain bad. -/
theorem BlockCase.fatal_rises {s t : State} (h : BlockCase s t) (hn : s.status.fatal = false)
    (hf : t.status.fatal = true) :
    s.status.busy = true ∧ s.coreNext = true ∧ decode s.cmd = .ok .dominit ∧ s.status.domv = false ∧
      (isPrime s.dp = false ∨ s.db % s.dp = 0) := by
  cases h with
  | reset hr ht => simp [ht] at hf
  | success i u hc hb hd heff ht => simp [ht, heff.fatal_eq, hn] at hf
  | error e hc hb hx ht =>
    obtain rfl : e = .invalidCurveParameter := by simpa [ht, hn] using hf
    rcases hx with ⟨he, -⟩ | ⟨i, hd, hraise⟩
    · cases he
    · obtain ⟨rfl, hdomv, hbad⟩ := raises_invalidCurveParameter_iff.mp hraise
      exact ⟨hb, hc, hd, hdomv, hbad⟩
  | data r n v hlt hd ht => simp [ht, hn] at hf
  | quiet hq => simp [hq.fatal, hn] at hf

/-! ## Errors are recorded (rule R37) -/

theorem BlockCase.recorded {s t : State} (h : BlockCase s t)
    (hs : ∀ e, s.errcode = some e → s.esticky.bit e = true) (e : ErrorCode) (he : t.errcode = some e) :
    t.esticky.bit e = true := by
  cases h with
  | reset hr ht => simp [ht] at he
  | success i u hc hb hd heff ht => simp [ht] at he
  | error c hc hb hx ht =>
    obtain rfl : c = e := by simpa [ht] using he
    simp [ht, Esticky.bit_record]
  | data r n v hlt hd ht => simpa [ht] using hs e (by simpa [ht] using he)
  | quiet hq =>
    rw [hq.esticky]
    rcases hq.errcode with hsame | hnone
    · exact hs e (hsame.symm.trans he)
    · simp [hnone] at he

theorem BlockCase.fatal_recorded {s t : State} (h : BlockCase s t)
    (hs : s.status.fatal = true → s.esticky.bit .invalidCurveParameter = true) (hf : t.status.fatal = true) :
    t.esticky.bit .invalidCurveParameter = true := by
  cases h with
  | reset hr ht => simp [ht] at hf
  | success i u hc hb hd heff ht =>
    simp only [ht, State.succeed_status, heff.fatal_eq, afterTurn_status] at hf
    simpa [ht, heff.esticky_eq] using hs hf
  | error e hc hb hx ht =>
    simp only [ht, State.takeError_status, afterTurn_status, Bool.or_eq_true, beq_iff_eq] at hf
    simpa [ht, Esticky.bit_record] using hf.imp_left hs
  | data r n v hlt hd ht => simpa [ht] using hs (by simpa [ht] using hf)
  | quiet hq => exact hq.esticky ▸ hs (hq.fatal ▸ hf)

/-! ## The invariant -/

/-- The invariant holds after a reset, whatever was before. -/
theorem inv_resetBlock {s : State} (hwf : s.cfg.wellFormed = true) : Inv s.resetBlock where
  config := hwf
  in_range := InRange.resetBlock s
  status := .of_status_zero rfl
  domain h := by cases h
  recorded e h := by cases h
  fatal_recorded h := by cases h

theorem BlockCase.wellFormed {s t : State} (h : BlockCase s t) (hs : s.cfg.wellFormed = true) :
    t.cfg.wellFormed = true := by
  cases h with
  | reset hr ht => exact ht ▸ hs
  | success i u hc hb hd heff ht =>
    obtain ⟨hcfg, -⟩ := heff.keepsControl
    subst ht
    rw [State.succeed_cfg, hcfg]
    exact hs
  | error e hc hb hx ht => exact ht ▸ hs
  | data r n v hn hd ht => simpa [ht] using hs
  | quiet hq => rwa [hq.cfg]

theorem Inv.step {s t : State} (h : Inv s) (hstep : step s = .next t) : Inv t := by
  obtain ⟨hwf, hrange, hstatus, hdomain, hrecorded, hfatal⟩ := h
  have hk : BlockCase s t := blockCase_of_step hstep
  exact {
    config := hk.wellFormed hwf
    in_range := InRange.step hrange hwf (fun hv => (hdomain hv).1.pos) hk
    status := hstatus.step (stepKind_of_step hstep)
    domain := hk.domain_checked hdomain
    recorded := hk.recorded hrecorded
    fatal_recorded := hk.fatal_recorded hfatal }

/-! ## Flags (rule R38) -/

/-- The command is the compare that owns the flags in which `f` and `g` differ. -/
def ownsFlags (i : Instr) (f g : Flags) : Prop :=
  (∃ ra rb, i = .peq ra rb ∧ g = { f with eq := g.eq }) ∨ (∃ ra rb, i = .psxdy ra rb ∧ g = { f with sxdy := g.sxdy }) ∨
  (∃ ra, i = .pisid ra ∧ g = { f with id := g.id }) ∨
  (∃ ra rb, i = .fcmp ra rb ∧ g = { f with flt := g.flt, feq := g.feq })

theorem Effect.flags_cases {s u : State} {i : Instr} (h : Effect s i u) :
    u.flags = s.flags ∨ ownsFlags i s.flags u.flags := by
  by_cases hi : compares i = true
  · refine .inr ?_
    cases h with
    | peq ra rb => exact .inl ⟨ra, rb, rfl, rfl⟩
    | psxdy ra rb => exact .inr (.inl ⟨ra, rb, rfl, rfl⟩)
    | pisid ra => exact .inr (.inr (.inl ⟨ra, rfl, rfl⟩))
    | fcmp ra rb => exact .inr (.inr (.inr ⟨ra, rb, rfl, rfl⟩))
    | nop | dominit | pldg | pneg | pred | padd | pdbl | pmul | fred | fneg | finv => cases hi
  · exact .inl (h.flags_eq (by simpa using hi))

theorem BlockCase.flags_cases {s t : State} (h : BlockCase s t) (hn : s.nextResets = false) :
    t.flags = s.flags ∨
      (s.status.busy = true ∧ s.coreNext = true ∧ t.status.err = false ∧
        ∃ i, decode s.cmd = .ok i ∧ ownsFlags i s.flags t.flags) := by
  cases h with
  | reset hr ht => simp [hn] at hr
  | success i u hc hb hd heff ht =>
    subst ht
    exact heff.flags_cases.imp_right fun howns => ⟨hb, hc, rfl, i, hd, howns⟩
  | error e hc hb hx ht => exact .inl (by simp [ht])
  | data r n v hlt hd ht => exact .inl (by simp [ht])
  | quiet hq => exact .inl hq.flags

/-! ## `FATAL` (rule R187) -/

theorem StepKind.fatal_keeps {s t : State} (h : StepKind s t) (hf : s.status.fatal = true) (hb : s.status.busy = false)
    (hn : s.nextResets = false) :
    t.status.fatal = true ∧ t.status.busy = false ∧ t.status.domv = s.status.domv ∧ t.cmd = s.cmd ∧
      t.errcode = s.errcode ∧ t.esticky = s.esticky ∧ t.flags = s.flags := by
  cases h with
  | reset hr _ => simp [hn] at hr
  | success _ _ _ hbusy _ _ _ | error _ _ hbusy _ _ => simp [hb] at hbusy
  | issue _ _ _ hfatal _ => simp [hf] at hfatal
  | data _ _ _ _ _ _ _ _ ht => simp [ht, hf, hb]
  | idle _ _ ht | read _ _ ht | clear _ _ ht | ignored _ _ _ ht | nothing _ _ _ ht =>
    exact ht ▸ ⟨hf, hb, rfl, rfl, rfl, rfl, rfl⟩

theorem step_of_blocked_command {s : State} {v : Word} (h : writesNext s 0x20 v)
    (hblocked : s.status.busy = true ∨ s.status.fatal = true) : step s = .next (afterTurn s).markIgnored := by
  rw [step_of_writesNext_control h (by decide) (by decide)]
  exact congrArg _ (State.writeCmd_of_blocked hblocked)

/-! ## The statements -/

/-- Settles O26: each part of the invariant is kept by every kind of step; that results fit their registers needs that
the modulus of a valid domain is positive. -/
theorem invariantKept : Obligations.InvariantKept := by
  unfold Obligations.InvariantKept
  intro s t h hstep
  exact h.step hstep

/-- Settles O25: the state is the one its own reset leaves. -/
theorem invariantAtReset : Obligations.InvariantAtReset := by
  unfold Obligations.InvariantAtReset
  intro c ts hwf
  exact inv_resetBlock (s := { State.resetOf c with turns := ts }) hwf

/-- Settles O28: no command has a domain register as destination, and an accepted write goes elsewhere. -/
theorem domainFrozenWhileValid : Obligations.DomainFrozenWhileValid := by
  unfold Obligations.DomainFrozenWhileValid
  intro s t h hv hn
  exact (blockCase_of_step h).domain_frozen hv hn

/-- Settles O29: `DOMV` rises by the effect of `DOMINIT` alone, `FATAL` by its error. -/
theorem domainBitsRiseOnlyByDominit : Obligations.DomainBitsRiseOnlyByDominit := by
  unfold Obligations.DomainBitsRiseOnlyByDominit
  intro s t h
  refine ⟨(blockCase_of_step h).domv_rises, ?_⟩
  intro hn hf
  obtain ⟨hb, hc, hd, hdomv, hbad⟩ := (blockCase_of_step h).fatal_rises hn hf
  refine ⟨hb, hc, hd, hdomv, ?_⟩
  rintro ⟨hp, hdb⟩
  rw [← isPrime_iff] at hp
  simp [hp, hdb] at hbad

/-- Settles O31: the effect of a compare writes its own flags (`Effect.flags_cases`), and nothing else writes a flag. -/
theorem flagsOwnedByCompares : Obligations.FlagsOwnedByCompares := by
  unfold Obligations.FlagsOwnedByCompares
  intro s t h hn
  refine ((blockCase_of_step h).flags_cases hn).imp_right ?_
  rintro ⟨hb, hc, herr, i, hd, howns⟩
  refine ⟨hb, hc, herr, ?_⟩
  rcases howns with ⟨ra, rb, rfl, hf⟩ | ⟨ra, rb, rfl, hf⟩ | ⟨ra, rfl, hf⟩ | ⟨ra, rb, rfl, hf⟩
  · exact .inl ⟨ra, rb, hd, hf⟩
  · exact .inr (.inl ⟨ra, rb, hd, hf⟩)
  · exact .inr (.inr (.inl ⟨ra, hd, hf⟩))
  · exact .inr (.inr (.inr ⟨ra, rb, hd, hf⟩))

/-- Settles O24: with `FATAL` and nothing pending no completion and no issue is left, and a reset clears `STATUS`. -/
theorem fatalStopsCommands : Obligations.FatalStopsCommands := by
  unfold Obligations.FatalStopsCommands
  refine ⟨?_, ?_⟩
  · intro s t hf hb hn h
    obtain ⟨hfatal, hbusy, hdomv, hcmd, herr, hsticky, hflags⟩ := (stepKind_of_step h).fatal_keeps hf hb hn
    refine ⟨hfatal, hbusy, hdomv, hcmd, herr, hsticky, hflags, ?_⟩
    rintro ⟨v, hw⟩
    rw [step_of_blocked_command hw (.inr hf)] at h
    cases h
    rfl
  · intro s hr
    exact ⟨_, step_of_nextResets hr, rfl⟩

end Sys2Proof.Machine
end

section
/-! SUPPORT. The step family: the core's completion of the pending word, host accesses and resets, each as an equation
of the step, and that a completion does not look at what a host access while busy can change (spec/20_memory.md rules R63
to R69, R73; spec/70_reset_and_hazards.md rules R200 to R212). -/

namespace Sys2Proof.Machine

/-! ## The core's turn -/

theorem step_of_idle {s : State} (hc : s.coreNext = true) (hb : s.status.busy = false) :
    step s = .next (afterTurn s) := by
  rw [step_core hc, State.coreTurn, if_neg (by simp [hb])]
  rfl

theorem step_of_busy {s : State} (hc : s.coreNext = true) (hb : s.status.busy = true) :
    step s = (afterTurn s).complete := by
  rw [step_core hc, State.coreTurn, if_pos hb]
  rfl

theorem State.complete_of_decoded {s : State} {i : Instr} (hd : decode s.cmd = .ok i) : s.complete = exec i s := by
  rw [State.complete, hd]

theorem State.complete_of_refused {s : State} {x : Illegal} (hd : decode s.cmd = .error x) :
    s.complete = .next (s.takeError .illegalCommand) := by
  rw [State.complete, hd]

theorem step_of_decoded {s : State} {i : Instr} (hb : s.status.busy = true) (hc : s.coreNext = true)
    (hd : decode s.cmd = .ok i) : step s = exec i (afterTurn s) :=
  (step_of_busy hc hb).trans (State.complete_of_decoded hd)

/-- The outcomes of a completion (rule R65). -/
theorem State.complete_cases (s : State) :
    (∃ i u, decode s.cmd = .ok i ∧ Effect s i u ∧ s.complete = .next u.succeed) ∨
      ∃ e, s.complete = .next (s.takeError e) := by
  cases hd : decode s.cmd with
  | error x => exact .inr ⟨_, State.complete_of_refused hd⟩
  | ok i =>
    rw [State.complete_of_decoded hd]
    rcases exec_next_cases i s with ⟨u, heff, hexec⟩ | ⟨e, -, hexec⟩
    · exact .inl ⟨i, u, rfl, heff, hexec⟩
    · exact .inr ⟨e, hexec⟩

/-- The table's numbering of a command word (rule R90). -/
theorem tableWord_32 (w : Nat) : tableWord 32 w = BitVec.ofNat 32 w := BitVec.eq_of_toNat_eq (by simp [tableWord])

theorem decode_of_decodeTableWord {w : Nat} {i : Instr} (h : decodeTableWord 32 w = some i) :
    decode (BitVec.ofNat 32 w) = .ok i := by
  rw [decodeTableWord, if_pos le_rfl, tableWord_32] at h
  split at h
  case h_1 j hd => rw [hd, Option.some.inj h]
  case h_2 => cases h

/-! ## Host accesses -/

/-- The next turn is a host read or a host write of `size` bytes at `addr`. -/
def accessNext (s : State) (addr size : Nat) (v : Word) : Prop :=
  s.turns.head? = some (.hostRead addr size) ∨ s.turns.head? = some (.hostWrite addr size v)

theorem step_of_accessNext {s : State} {addr size : Nat} {v : Word} (h : accessNext s addr size v) :
    (∃ f, accessOffset s.cfg addr size = .error f ∧ step s = .fault f) ∨
      ∃ off t, accessOffset s.cfg addr size = .ok off ∧ step s = .next t := by
  rcases h with h | h
  all_goals
    obtain ⟨rest, ht⟩ := List.head?_eq_some_iff.mp h
    rw [step_cons ht]
    simp only [State.takeTurn, State.hostRead, State.hostWrite]
    cases accessOffset s.cfg addr size with
    | error f => exact .inl ⟨f, rfl, rfl⟩
    | ok off => exact .inr ⟨off, _, rfl, rfl⟩

theorem accessOffset_ok_iff {c : Config} {addr size : Nat} :
    (∃ off, accessOffset c addr size = .ok off) ↔ ∃ off, wordOffset off ∧ addr = c.base + off ∧ size = 4 := by
  refine exists_congr fun off => ?_
  rw [accessOffset_eq_ok, wordOffset, windowBytes]
  tauto

/-! ## The registers after a reset (rule R45) -/

theorem State.resetBlock_readWord (s : State) (off : Nat) :
    s.resetBlock.readWord off =
      if off = 0x00 then 0x45435041#32 else if off = 0x04 then 0x00010000#32
      else if off = 0x08 then BitVec.ofNat 32 (s.cfg.kw * 65536 + s.cfg.w) else 0#32 := by
  split_ifs with hid hversion hcfg
  · exact hid ▸ s.resetBlock.readWord_control (by decide)
  · exact hversion ▸ s.resetBlock.readWord_control (by decide)
  · exact hcfg ▸ s.resetBlock.readWord_control (by decide)
  · rw [State.readWord]
    cases hl : locate s.resetBlock.cfg off with
    | id => exact absurd (eq_of_locate_control (off' := 0x00) (by decide) hl) hid
    | version => exact absurd (eq_of_locate_control (off' := 0x04) (by decide) hl) hversion
    | cfg => exact absurd (eq_of_locate_control (off' := 0x08) (by decide) hl) hcfg
    | data r n => simp [State.readLoc, wordOf]
    | ctrl | errcode | cmd | reserved => rfl
    | status | esticky | flags => simp [State.readLoc, Status.word, Esticky.word, Flags.word, bitAt]

theorem resetRegisters_resetBlock (s : State) : resetRegisters s.cfg s.resetBlock :=
  ⟨rfl, s.resetBlock_dataReg, fun r => by cases r <;> rfl, rfl, fun off _ => s.resetBlock_readWord off⟩

/-! ## A completion does not look at what a host can change while busy (rule R205) -/

/-- `s` with those bits and fields changed that host accesses other than resets can change while `BUSY`. -/
def State.disturb (s : State) (done err wign : Bool) (ts : List Turn) (rd : Option Word) : State :=
  { s with status := { s.status with done := done, err := err, wign := wign }, turns := ts, rdata := rd }

section
variable {s t u : State} {i : Instr} (done err wign : Bool) (ts : List Turn) (rd : Option Word)

theorem State.disturb_setPoint (s : State) (r : PReg) (v : Point) :
    (s.setPoint r v).disturb done err wign ts rd = (s.disturb done err wign ts rd).setPoint r v := by
  cases r <;> rfl

theorem State.disturb_setField (s : State) (r : FReg) (v : Nat) :
    (s.setField r v).disturb done err wign ts rd = (s.disturb done err wign ts rd).setField r v := by
  cases r <;> rfl

/-- An effect reads and writes none of it. -/
theorem Effect.disturb (h : Effect s i u) :
    Effect (s.disturb done err wign ts rd) i (u.disturb done err wign ts rd) := by
  cases h with
  | nop => exact .nop
  | dominit hn hp hb => exact .dominit hn hp hb
  | peq ra rb => exact .peq ra rb
  | psxdy ra rb => exact .psxdy ra rb
  | pisid ra => exact .pisid ra
  | fcmp ra rb => exact .fcmp ra rb
  | pldg rd hv =>
    rw [State.disturb_setPoint]
    exact .pldg rd hv
  | pneg rd ra hv =>
    rw [State.disturb_setPoint]
    exact .pneg rd ra hv
  | pred rd ra hv =>
    rw [State.disturb_setPoint]
    exact .pred rd ra hv
  | padd rd ra rb r hv hr =>
    rw [State.disturb_setPoint]
    exact .padd rd ra rb r hv hr
  | pdbl rd ra r hv hr =>
    rw [State.disturb_setPoint]
    exact .pdbl rd ra r hv hr
  | pmul rd ra r hv hr =>
    rw [State.disturb_setPoint]
    exact .pmul rd ra r hv hr
  | fred rd ra hv =>
    rw [State.disturb_setField]
    exact .fred rd ra hv
  | fneg rd ra hv =>
    rw [State.disturb_setField]
    exact .fneg rd ra hv
  | finv rd ra x hv hr =>
    rw [State.disturb_setField]
    exact .finv rd ra x hv hr

theorem Raises.of_disturb {e : ErrorCode} (h : Raises (s.disturb done err wign ts rd) i e) : Raises s i e := by
  cases h with
  | invalidCurve hn hbad => exact .invalidCurve hn hbad
  | locked hv => exact .locked hv
  | notValid hi hn => exact .notValid hi hn
  | noInverse hi hv => exact .noInverse hi hv

theorem Raises.eq {e e' : ErrorCode} (h : Raises s i e) (h' : Raises s i e') : e' = e := by
  by_cases he : e = .noInverse
  · by_cases he' : e' = .noInverse
    · rw [he, he']
    · exact (h'.unique h he').symm
  · exact h.unique h' he

theorem exec_disturb (h : exec i s = .next t) :
    exec i (s.disturb done err wign ts rd) = .next (t.disturb t.status.done t.status.err wign ts rd) := by
  rcases exec_eq_next h with ⟨u, heff, rfl⟩ | ⟨e, hraise, rfl⟩
  · exact exec_of_effect (heff.disturb done err wign ts rd)
  · rcases exec_next_cases i (s.disturb done err wign ts rd) with ⟨u, heff, -⟩ | ⟨e', hraise', hexec⟩
    · have heff' : Effect s i _ := heff.disturb s.status.done s.status.err s.status.wign s.turns s.rdata
      rw [exec_of_effect heff'] at h
      cases congrArg (fun t => t.status.err) (Host.Outcome.next.inj h)
    · rw [hexec, hraise.eq hraise'.of_disturb]
      rfl

theorem State.complete_disturb (h : s.complete = .next t) :
    (s.disturb done err wign ts rd).complete = .next (t.disturb t.status.done t.status.err wign ts rd) := by
  cases hd : decode s.cmd with
  | error x =>
    rw [State.complete_of_refused hd] at h
    cases h
    exact State.complete_of_refused hd
  | ok i =>
    rw [State.complete_of_decoded hd] at h
    exact (State.complete_of_decoded (s := s.disturb done err wign ts rd) hd).trans (exec_disturb done err wign ts rd h)

/-- A step that is no reset, made while a command is pending, completes it or disturbs the state. -/
theorem StepKind.disturbs (h : StepKind s t) (hb : s.status.busy = true) (hn : s.nextResets = false) :
    s.coreNext = true ∨ ∃ done err wign rd, t = (afterTurn s).disturb done err wign (afterTurn s).turns rd := by
  cases h with
  | reset hr _ => simp [hn] at hr
  | success _ _ hc _ _ _ _ | error _ hc _ _ _ | idle hc _ _ => exact .inl hc
  | issue _ _ hbusy _ _ | data _ _ _ _ _ _ hbusy _ _ => simp [hb] at hbusy
  | read _ _ ht | clear _ _ ht | ignored _ _ _ ht | nothing _ _ _ ht => exact .inr ⟨_, _, _, _, ht⟩

end

/-! ## What every completion does (rule R65) -/

theorem State.complete_is_next (s : State) : ∃ t, s.complete = .next t := by
  rcases s.complete_cases with ⟨i, u, -, -, h⟩ | ⟨e, h⟩ <;> exact ⟨_, h⟩

theorem State.complete_outcome {s t : State} (h : s.complete = .next t) :
    t.status.busy = false ∧ t.status.done = true ∧ (t.status.err = true ↔ t.errcode ≠ none) ∧ keepsControl s t := by
  rcases s.complete_cases with ⟨i, u, -, heff, hu⟩ | ⟨e, he⟩
  · rw [hu] at h
    cases h
    exact ⟨rfl, rfl, by simp, heff.keepsControl⟩
  · rw [he] at h
    cases h
    exact ⟨rfl, rfl, by simp, rfl, rfl, rfl, rfl, rfl⟩

/-! ## The statements -/

/-- Settles O7: the core's turn with a command pending is `complete`, and so is the one after `withFetchWord`. -/
theorem stepRunsPendingCommand : Obligations.StepRunsPendingCommand := by
  unfold Obligations.StepRunsPendingCommand
  refine ⟨fun s i hb hc hd => step_of_decoded hb hc hd, ?_⟩
  intro s w i hd
  rw [State.withFetchWord, tableWord_32]
  exact step_of_decoded (s := s.present (BitVec.ofNat 32 w)) rfl rfl (decode_of_decodeTableWord hd)

/-- Settles O8: the step of an access is decided by `accessOffset`, which answers an offset exactly on the accesses of
rule R69. -/
theorem malformedAccessHasNoStep : Obligations.MalformedAccessHasNoStep := by
  unfold Obligations.MalformedAccessHasNoStep
  intro s addr size v h
  rw [← accessOffset_ok_iff]
  rcases step_of_accessNext h with ⟨f, hoff, hstep⟩ | ⟨off, t, hoff, hstep⟩ <;> simp [hoff, hstep]

/-- Settles O9: `complete` is total, and both its outcomes record themselves. -/
theorem pendingCommandCompletes : Obligations.PendingCommandCompletes := by
  unfold Obligations.PendingCommandCompletes
  intro s hb hc
  obtain ⟨t, ht⟩ := (afterTurn s).complete_is_next
  exact ⟨t, (step_of_busy hc hb).trans ht, State.complete_outcome ht⟩

/-- Settles O10: every reset leaves `resetBlock`, and `State.reset` is its own. -/
theorem resetValues : Obligations.ResetValues := by
  unfold Obligations.ResetValues
  refine ⟨?_, resetRegisters_resetBlock State.reset⟩
  intro s hr
  exact ⟨_, step_of_hardReset hr, resetRegisters_resetBlock (afterTurn s)⟩

/-- Settles O12: a reset does not look at `BUSY`, and leaves the core idle. -/
theorem resetAbandonsCommand : Obligations.ResetAbandonsCommand := by
  unfold Obligations.ResetAbandonsCommand
  intro s hr _
  exact ⟨_, step_of_nextResets hr, rfl, rfl, rfl, fun hc => step_of_idle hc rfl⟩

/-- Settles O32: what the access changes the completion does not look at (`State.complete_disturb`); when the first turn
is the core's own, it completes the command and the second finds the core idle. -/
theorem accessWhileBusyDoesNotAffectCommand : Obligations.AccessWhileBusyDoesNotAffectCommand := by
  unfold Obligations.AccessWhileBusyDoesNotAffectCommand
  intro s s₁ a rest hb hts hreset hstep
  obtain ⟨t, ht⟩ := State.complete_is_next { s with turns := rest }
  obtain ⟨hbusy, -, -, -, (hturns : t.turns = rest), -⟩ := State.complete_outcome ht
  have hcore : step { s with turns := .core :: rest } = .next t :=
    (step_of_busy (s := { s with turns := .core :: rest }) rfl hb).trans ht
  have hn : s.nextResets = false := by simpa [State.nextResets, hts] using hreset
  have hafter : afterTurn s = { s with turns := .core :: rest } := afterTurn_of_cons hts
  suffices ∃ w rd, step s₁ = .next (t.disturb t.status.done t.status.err w rest rd) by
    obtain ⟨w, rd, h₁⟩ := this
    refine ⟨t, _, hcore, h₁, ?_⟩
    rw [← hturns]
    rfl
  rcases (stepKind_of_step hstep).disturbs hb hn with hc | ⟨d, e, w, rd, h₁⟩
  · rw [step_of_busy hc hb, hafter] at hstep
    have h := State.complete_disturb s.status.done s.status.err s.status.wign (.core :: rest) s.rdata ht
    obtain rfl := Host.Outcome.next.inj (hstep.symm.trans h)
    exact ⟨s.status.wign, s.rdata, step_of_idle rfl hbusy⟩
  · rw [hafter] at h₁
    subst h₁
    have hbusy₁ := step_of_busy (s := State.disturb { s with turns := .core :: rest } d e w (.core :: rest) rd) rfl hb
    have h := State.complete_disturb d e w rest rd ht
    exact ⟨w, rd, hbusy₁.trans h⟩

end Sys2Proof.Machine
end

section
/-! SUPPORT. The window family: how the status registers and the words of a slot read, and that writing all words of a
register one after the other stores the value (spec/10_state.md rules R34 to R38; spec/20_memory.md rules R61 to R64;
spec/30_encoding.md rule R100). -/

namespace Sys2Proof.Machine

/-! ## `STATUS`, `FLAGS` and `ERRCODE` -/

/-- The bits of `STATUS` (rule R34). -/
theorem Status.word_getLsbD (t : Status) (n : Nat) :
    t.word.getLsbD n = true ↔
      (n = 0 ∧ t.busy = true) ∨ (n = 1 ∧ t.done = true) ∨ (n = 2 ∧ t.err = true) ∨ (n = 3 ∧ t.domv = true) ∨
        (n = 4 ∧ t.fatal = true) ∨ (n = 5 ∧ t.wign = true) := by
  simp only [Status.word, BitVec.getLsbD_or, Bool.or_eq_true, bitAt_getLsbD (by decide : 0 < 32),
    bitAt_getLsbD (by decide : 1 < 32), bitAt_getLsbD (by decide : 2 < 32), bitAt_getLsbD (by decide : 3 < 32),
    bitAt_getLsbD (by decide : 4 < 32), bitAt_getLsbD (by decide : 5 < 32), or_assoc, eq_comm (b := n)]

/-- The bits of `FLAGS` (rule R38). -/
theorem Flags.word_getLsbD (f : Flags) (n : Nat) :
    f.word.getLsbD n = true ↔
      (n = 0 ∧ f.eq = true) ∨ (n = 1 ∧ f.sxdy = true) ∨ (n = 2 ∧ f.id = true) ∨ (n = 3 ∧ f.flt = true) ∨
        (n = 4 ∧ f.feq = true) := by
  simp only [Flags.word, BitVec.getLsbD_or, Bool.or_eq_true, bitAt_getLsbD (by decide : 0 < 32),
    bitAt_getLsbD (by decide : 1 < 32), bitAt_getLsbD (by decide : 2 < 32), bitAt_getLsbD (by decide : 3 < 32),
    bitAt_getLsbD (by decide : 4 < 32), or_assoc, eq_comm (b := n)]

theorem Status.eq_of_word_eq_zero {t : Status} (h : t.word = 0#32) :
    t = ⟨false, false, false, false, false, false⟩ := by
  obtain ⟨busy, done, err, domv, fatal, wign⟩ := t
  revert busy done err domv fatal wign
  decide

/-! ## The words of a slot -/

theorem step_of_readsNext {s : State} {off : Nat} (h : readsNext s off) (hoff : wordOffset off) :
    step s = .next { afterTurn s with rdata := some (s.readWord off) } := by
  obtain ⟨rest, ht⟩ := List.head?_eq_some_iff.mp h
  rw [step_hostRead ht hoff.2 hoff.1, afterTurn_of_cons ht]

/-- Rules R62 and R67: below `N` the words of the register, above them 0. -/
theorem State.readWord_slot (s : State) (r : DataReg) {n : Nat} (hn : n < 64) :
    s.readWord (r.slot + 4 * n) = if n < r.words s.cfg then wordOf (s.dataReg r) n else 0#32 := by
  rw [State.readWord, locate_slot s.cfg r n hn]
  split <;> rfl

/-- A number of `N` words is the sum of its words at their weights. -/
theorem sum_wordOf (v N : Nat) :
    ∑ n ∈ Finset.range N, (wordOf v n).toNat * 2 ^ (32 * n) = v % 2 ^ (32 * N) := by
  induction N with
  | zero => simp [Nat.mod_one]
  | succ N ih =>
    rw [Finset.sum_range_succ, ih, wordOf_toNat, pow_word_succ, Nat.mul_comm (2 ^ 32), Nat.mod_mul,
      Nat.mul_comm (v / 2 ^ (32 * N) % 2 ^ 32)]

/-! ## Writing a register word by word (rule R100) -/

/-- The value of a register that held `old` when the words of `v` below `n` have been written. -/
def partlyWritten (old v n : Nat) : Nat := v % 2 ^ (32 * n) + old / 2 ^ (32 * n) * 2 ^ (32 * n)

theorem partlyWritten_zero (old v : Nat) : partlyWritten old v 0 = old := by
  simp [partlyWritten, Nat.mod_one]

theorem partlyWritten_of_lt {old v N : Nat} (hold : old < 2 ^ (32 * N)) (hv : v < 2 ^ (32 * N)) :
    partlyWritten old v N = v := by
  rw [partlyWritten, Nat.mod_eq_of_lt hv, Nat.div_eq_of_lt hold, Nat.zero_mul, Nat.add_zero]

theorem replaceWord_partlyWritten (old v n : Nat) :
    replaceWord (partlyWritten old v n) n (wordOf v n) = partlyWritten old v (n + 1) := by
  have hb : 0 < 2 ^ (32 * n) := by positivity
  have hmod : partlyWritten old v n % 2 ^ (32 * n) = v % 2 ^ (32 * n) := by
    rw [partlyWritten, Nat.add_mul_mod_self_right, Nat.mod_mod]
  have hdiv : partlyWritten old v n / 2 ^ (32 * n) = old / 2 ^ (32 * n) := by
    rw [partlyWritten, Nat.add_mul_div_right _ _ hb, Nat.div_eq_of_lt (Nat.mod_lt _ hb), Nat.zero_add]
  rw [replaceWord_eq, hmod, hdiv, wordOf_toNat, partlyWritten, pow_word_succ, Nat.mul_comm (2 ^ 32), Nat.mod_mul,
    ← Nat.div_div_eq_div_mul]
  ring

theorem State.setDataReg_self (s : State) (r : DataReg) : s.setDataReg r (s.dataReg r) = s := by
  rcases r with _ | _ | _ | _ | _ | _ | q | q | q
  case px | py | f => cases q <;> rfl
  all_goals rfl

theorem State.setDataReg_setDataReg (s : State) (r : DataReg) (v w : Nat) :
    (s.setDataReg r v).setDataReg r w = s.setDataReg r w := by
  rcases r with _ | _ | _ | _ | _ | _ | q | q | q
  case px | py | f => cases q <;> rfl
  all_goals rfl

theorem State.setDataReg_withTurns (s : State) (r : DataReg) (v : Nat) (ts : List Turn) :
    { s.setDataReg r v with turns := ts } = { s with turns := ts }.setDataReg r v := by
  rcases r with _ | _ | _ | _ | _ | _ | q | q | q
  case px | py | f => cases q <;> rfl
  all_goals rfl

@[simp] theorem State.setDataReg_turns (s : State) (r : DataReg) (v : Nat) : (s.setDataReg r v).turns = s.turns := by
  cases r <;> simp [State.setDataReg]

theorem run_succ (M : Host.Core) {s t : M.State} (k : Nat) (h : M.step s = .next t) : M.run (k + 1) s = M.run k t := by
  rw [Host.Core.run, h]

/-- The `k` word writes of `v` from word `n` on. -/
def wordWrites (c : Config) (r : DataReg) (v n k : Nat) : List Turn :=
  (List.range' n k).map fun m => writeTurn c (r.slot + 4 * m) (wordOf v m)

theorem writeTurns_eq_wordWrites (c : Config) (r : DataReg) (v : Nat) :
    writeTurns c (.data r) v = wordWrites c r v 0 (r.words c) := by
  rw [wordWrites, ← List.range_eq_range']
  rfl

theorem run_wordWrites {r : DataReg} {old v : Nat} {rest : List Turn} (k n : Nat) {s : State}
    (hwf : s.cfg.wellFormed = true) (hnk : n + k ≤ r.words s.cfg) (haccept : ¬ ignoresWrite s r)
    (hdata : s.dataReg r = partlyWritten old v n) (hturns : s.turns = wordWrites s.cfg r v n k ++ rest) :
    Host.Core.run Sys2Proof.core k s = .next ({ s with turns := rest }.setDataReg r (partlyWritten old v (n + k))) := by
  induction k generalizing n s with
  | zero =>
    have hs : { s with turns := rest } = s := by
      rw [show rest = s.turns from hturns.symm]
    rw [hs, Nat.add_zero, ← hdata, State.setDataReg_self]
    rfl
  | succ k ih =>
    have hcons : s.turns =
        writeTurn s.cfg (r.slot + 4 * n) (wordOf v n) :: (wordWrites s.cfg r v (n + 1) k ++ rest) := by
      rw [hturns, wordWrites, List.range'_succ]
      rfl
    have hstep : step s = .next ((afterTurn s).setDataReg r (partlyWritten old v (n + 1))) := by
      have hw : writesNext s (r.slot + 4 * n) (wordOf v n) := List.head?_eq_some_iff.mpr ⟨_, hcons⟩
      rw [step_of_writesNext_data hwf (by omega) hw, State.writeData_of_accepted (s := afterTurn s) haccept,
        afterTurn_dataReg, hdata, replaceWord_partlyWritten]
    have hrest := ih (n + 1) (s := (afterTurn s).setDataReg r (partlyWritten old v (n + 1))) (by simpa using hwf)
      (by simpa using (by omega : n + 1 + k ≤ r.words s.cfg)) (by simpa [ignoresWrite] using haccept) (by simp)
      (by simp [afterTurn, hcons])
    rw [State.setDataReg_withTurns, State.setDataReg_setDataReg, Nat.add_right_comm, Nat.add_assoc] at hrest
    exact (run_succ Sys2Proof.core k hstep).trans hrest

/-! ## The statements -/

/-- Settles O13: the step of a read keeps everything but the schedule and the model's record, and `readWord` gives the
value in each place. -/
theorem hostReadReturnsWord : Obligations.HostReadReturnsWord := by
  unfold Obligations.HostReadReturnsWord
  intro s _
  refine ⟨?_, ?_⟩
  · intro r n hn hr
    rw [step_of_readsNext hr (r.wordOffset_slot hn), s.readWord_slot r hn]
    rfl
  · intro off w hr hmem
    have hcontrol : off < 0x100 ∧ off % 4 = 0 ∧ s.readLoc (controlReg off) = w := by
      simp only [List.mem_cons, Prod.mk.injEq, List.not_mem_nil, or_false] at hmem
      rcases hmem with ⟨rfl, rfl⟩ | ⟨rfl, rfl⟩ | ⟨rfl, rfl⟩ | ⟨rfl, rfl⟩ | ⟨rfl, rfl⟩ | ⟨rfl, rfl⟩ | ⟨rfl, rfl⟩ |
        ⟨rfl, rfl⟩ | ⟨rfl, rfl⟩ <;> exact ⟨by decide, by decide, rfl⟩
    obtain ⟨hlow, ha, hread⟩ := hcontrol
    rw [step_of_readsNext hr ⟨ha, by omega⟩, s.readWord_control hlow, hread]

/-- Settles O15: the words are disjunctions of their bits, and a write to `STATUS` is `clearStatus`. -/
theorem statusRegisterFields : Obligations.StatusRegisterFields := by
  unfold Obligations.StatusRegisterFields
  refine ⟨?_, ?_⟩
  · intro s n
    rw [s.readWord_control (by decide), s.readWord_control (by decide), s.readWord_control (by decide)]
    refine ⟨s.status.word_getLsbD n, s.flags.word_getLsbD n, ?_⟩
    show (errcodeWord s.errcode).toNat = _
    rcases s.errcode with _ | e
    · rfl
    · cases e <;> rfl
  · intro s v hw
    exact step_of_writesNext_control hw (by decide) (by decide)

/-- Settles O17: the words read at their offsets are those of `sum_wordOf`. -/
theorem valueIsSumOfWords : Obligations.ValueIsSumOfWords := by
  unfold Obligations.ValueIsSumOfWords
  intro s r hwf hlt
  have hread : ∀ n ∈ Finset.range (r.words s.cfg), (s.readWord (r.slot + 4 * n)).toNat * 2 ^ (32 * n) =
      (wordOf (s.dataReg r) n).toNat * 2 ^ (32 * n) := by
    intro n hn
    have hn' : n < r.words s.cfg := Finset.mem_range.mp hn
    rw [s.readWord_slot r (hn'.trans_le (r.words_le s.cfg hwf)), if_pos hn']
  rw [r.width_eq s.cfg hwf] at hlt
  rw [Finset.sum_congr rfl hread, sum_wordOf, Nat.mod_eq_of_lt hlt]

/-- Settles O18: by induction on the writes left, the register holds the words written so far and the old ones above. -/
theorem scriptWriteStoresValue : Obligations.ScriptWriteStoresValue := by
  unfold Obligations.ScriptWriteStoresValue
  intro s r v rest hwf hold hv hb hd hturns
  rw [r.width_eq s.cfg hwf] at hold hv
  have haccept : ¬ ignoresWrite s r := by
    rintro (hbusy | ⟨hr, hdomv⟩)
    · simp [hb] at hbusy
    · simp [hd hr] at hdomv
  rw [writeTurns_eq_wordWrites] at hturns
  rw [run_wordWrites _ 0 hwf (by omega) haccept (partlyWritten_zero _ v).symm hturns, Nat.zero_add,
    partlyWritten_of_lt hold hv]

/-- Settles O33: the issue of `NOP` and its completion touch `STATUS` and `ERRCODE` only. -/
theorem nopCompletes : Obligations.NopCompletes := by
  unfold Obligations.NopCompletes
  refine ⟨by decide, fun s => exec_of_effect .nop, ?_⟩
  intro s hw hb hf hcore
  have hissue : step s = .next ((afterTurn s).issue (encode .nop)) := by
    rw [step_of_writesNext_control hw (by decide) (by decide)]
    exact congrArg _ (State.writeCmd_of_ready hb hf)
  obtain ⟨rest, ht⟩ := List.head?_eq_some_iff.mp hcore
  have hnext : ((afterTurn s).issue (encode .nop)).coreNext = true := by
    have hturns : (afterTurn s).turns = .core :: rest := ht
    simp [State.coreNext, hturns]
  have hstep := (step_of_decoded rfl hnext (decode_encode .nop)).trans (exec_of_effect .nop)
  refine ⟨_, _, hissue, rfl, rfl, rfl, hstep, rfl, rfl, State.readWord_control _ (by decide), ?_⟩
  intro hzero
  rw [s.readWord_control (by decide)] at hzero
  have hstatus := Status.eq_of_word_eq_zero hzero
  rw [State.readWord_control _ (by decide)]
  show Status.word { s.status with busy := false, done := true, err := false } = _
  rw [hstatus]
  decide

end Sys2Proof.Machine
end

section
/-! SUPPORT. The group family, the formulas: under a prime modulus the tangent and the chord, read in the field of
integers modulo `p`, are the third point of a line (`ThirdPoint`), and from that alone follow commutation and that subtracting
undoes adding (spec/43_point_add_double.md rules R150 to R161). -/

namespace Sys2Proof.Machine

/-! ## The third point of a line -/

/-- `R` is reduced and is, modulo `p`, what rules R150 and R152 compute from the slope `ℓ` of a line through `P` and
`Q`. -/
structure ThirdPoint (p : Nat) (ℓ : ZMod p) (P Q R : Point) : Prop where
  reduced : R.reduced p
  x : (R.x : ZMod p) = ℓ ^ 2 - P.x - Q.x
  y : (R.y : ZMod p) = ℓ * (P.x - R.x) - P.y

/-- The slope of the chord through `P` and `Q` modulo `p`. -/
def chordSlope (p : Nat) [Fact p.Prime] (P Q : Point) : ZMod p := (P.y - Q.y) / (P.x - Q.x)

/-- The slope of the tangent at `P` modulo `p`. -/
def tangentSlope (p : Nat) [Fact p.Prime] (a : Nat) (P : Point) : ZMod p := (3 * P.x ^ 2 + a) / (2 * P.y)

theorem eq_of_natCast_eq {p m n : Nat} (hm : m < p) (hn : n < p) (h : (m : ZMod p) = n) : m = n := by
  have hmod := (ZMod.natCast_eq_natCast_iff' m n p).mp h
  rwa [Nat.mod_eq_of_lt hm, Nat.mod_eq_of_lt hn] at hmod

theorem Point.eq_of_natCast_eq {p : Nat} {P Q : Point} (hP : P.reduced p) (hQ : Q.reduced p)
    (hx : (P.x : ZMod p) = Q.x) (hy : (P.y : ZMod p) = Q.y) : P = Q := by
  cases P
  cases Q
  exact Point.mk.injEq .. |>.mpr ⟨Machine.eq_of_natCast_eq hP.1 hQ.1 hx, Machine.eq_of_natCast_eq hP.2 hQ.2 hy⟩

theorem natCast_of_eq_emod {p n : Nat} {v : Int} (h : (n : Int) = v % p) : (n : ZMod p) = v := by
  have hcast := congrArg (Int.cast : Int → ZMod p) h
  rwa [Int.cast_natCast, ZMod.intCast_mod] at hcast

section
variable {p a : Nat} {ℓ : ZMod p} {P Q R R' : Point}

theorem ThirdPoint.unique (h : ThirdPoint p ℓ P Q R) (h' : ThirdPoint p ℓ P Q R') : R = R' := by
  have hx : (R.x : ZMod p) = R'.x := h.x.trans h'.x.symm
  exact Point.eq_of_natCast_eq h.reduced h'.reduced hx (by rw [h.y, h'.y, hx])

theorem ThirdPoint.swap (hℓ : ℓ * (P.x - Q.x) = P.y - Q.y) (h : ThirdPoint p ℓ P Q R) : ThirdPoint p ℓ Q P R where
  reduced := h.reduced
  x := by rw [h.x]; ring
  y := by rw [h.y]; linear_combination hℓ

variable [Fact p.Prime]

theorem chordSlope_mul (h : (P.x : ZMod p) ≠ Q.x) : chordSlope p P Q * (P.x - Q.x) = P.y - Q.y :=
  div_mul_cancel₀ _ (sub_ne_zero.mpr h)

theorem chordSlope_swap (P Q : Point) : chordSlope p Q P = chordSlope p P Q := by
  rw [chordSlope, chordSlope, ← neg_sub (P.y : ZMod p), ← neg_sub (P.x : ZMod p), neg_div_neg_eq]

/-- The sign step of rule R153 does not change the slope. -/
theorem chordDiff_slope (h : (P.x : ZMod p) ≠ Q.x) :
    ((chordDiff P Q).2 : ZMod p) = chordSlope p P Q * ((chordDiff P Q).1 : ZMod p) := by
  have hmul := chordSlope_mul h
  unfold chordDiff
  split
  · push_cast
    exact hmul.symm
  · push_cast
    linear_combination hmul

theorem addGeneral_thirdPoint (h : (P.x : ZMod p) ≠ Q.x) :
    ∃ R, addGeneral p P Q = .ok R ∧ ThirdPoint p (chordSlope p P Q) P Q R := by
  have hp : p.Prime := Fact.out
  obtain ⟨inv, slope, x3, y3, -, hinv, hslope, hx3, hy3, hadd⟩ :=
    addGeneral_of_mod_ne hp (mt (ZMod.natCast_eq_natCast_iff' _ _ p).mpr h)
  have hinv' : ((1 : Nat) : ZMod p) = _ := natCast_of_eq_emod (by exact_mod_cast hinv.symm)
  have hslope' : (slope : ZMod p) = chordSlope p P Q := by
    rw [natCast_of_eq_emod hslope]
    push_cast at hinv' ⊢
    rw [chordDiff_slope h, mul_assoc, ← hinv', mul_one]
  refine ⟨_, hadd, addGeneral_reduced hp.pos hadd, ?_, ?_⟩
  · rw [natCast_of_eq_emod hx3, ← hslope']
    push_cast
    ring
  · rw [natCast_of_eq_emod hy3, ← hslope']
    push_cast
    ring

theorem dbl_thirdPoint (a : Nat) (h : 2 * (P.y : ZMod p) ≠ 0) :
    ∃ R, dbl p a P = .ok R ∧ ThirdPoint p (tangentSlope p a P) P P R := by
  have hp : p.Prime := Fact.out
  have hdvd : ¬ p ∣ 2 * P.y := by
    rw [← ZMod.natCast_eq_zero_iff]
    exact_mod_cast h
  obtain ⟨inv, slope, x3, y3, -, hinv, hslope, hx3, hy3, hdbl⟩ := dbl_of_not_dvd (a := a) hp hdvd
  have hinv' : (1 : ZMod p) = 2 * P.y * inv := by
    have hcast := congrArg (Nat.cast : Nat → ZMod p) hinv
    rw [ZMod.natCast_mod] at hcast
    exact_mod_cast hcast.symm
  have hslope' : (slope : ZMod p) = tangentSlope p a P := by
    rw [tangentSlope, eq_div_iff h, hslope, ZMod.natCast_mod]
    push_cast
    linear_combination -(3 * (P.x : ZMod p) ^ 2 + a) * hinv'
  refine ⟨_, hdbl, dbl_reduced hp.pos hdbl, ?_, ?_⟩
  · rw [natCast_of_eq_emod hx3, ← hslope']
    push_cast
    ring
  · rw [natCast_of_eq_emod hy3, ← hslope']
    push_cast
    ring

end

/-! ## Commutation (rule R157) -/

theorem addGeneral_swap {p : Nat} (hp : p.Prime) (P Q : Point) : addGeneral p P Q = addGeneral p Q P := by
  have : Fact p.Prime := ⟨hp⟩
  by_cases h : P.x % p = Q.x % p
  · rw [addGeneral_of_mod_eq hp h, addGeneral_of_mod_eq hp h.symm]
  · have hx : (P.x : ZMod p) ≠ Q.x := mt (ZMod.natCast_eq_natCast_iff' _ _ p).mp h
    obtain ⟨R, hR, hthird⟩ := addGeneral_thirdPoint hx
    obtain ⟨R', hR', hthird'⟩ := addGeneral_thirdPoint hx.symm
    rw [chordSlope_swap] at hthird'
    rw [hR, hR', (hthird.swap (chordSlope_mul hx)).unique hthird']

theorem add_swap {p : Nat} (a : Nat) (hp : p.Prime) (P Q : Point) : add p a P Q = add p a Q P := by
  cases add_cases p a P Q with
  | same h _ => rw [h]
  | opposite hx hy h => rw [h, add_of_eq_x hx.symm hy.symm]
  | left hP hQ h =>
    have hx : Q.x ≠ P.x := by
      rw [hP]
      exact hQ
    rw [h, add_of_right_ident hx hP]
  | right hQ hP h =>
    have hx : Q.x ≠ P.x := by
      rw [hQ]
      exact hP.symm
    rw [h, add_of_left_ident hx hQ]
  | general hx hP hQ h => rw [h, add_of_ne_ident hx.symm hQ hP, addGeneral_swap hp]

/-! ## Negation, and subtracting what was added (rules R121, R161) -/

theorem natCast_negate_y {p : Nat} (hp : 0 < p) (P : Point) : ((P.negate p).y : ZMod p) = -P.y := by
  rw [Point.negate, zmod_normP hp]
  push_cast
  rfl

/-- The line through `R = S + M` and `-S` is the chord of `S` and `M` mirrored, and its third point is `M`. -/
theorem ThirdPoint.subtract {p : Nat} (hp : 0 < p) {ℓ : ZMod p} {S M R : Point} (h : ThirdPoint p ℓ S M R)
    (hℓ : ℓ * (S.x - M.x) = S.y - M.y) : ThirdPoint p (-ℓ) R (S.negate p) ⟨M.x % p, M.y % p⟩ where
  reduced := ⟨Nat.mod_lt _ hp, Nat.mod_lt _ hp⟩
  x := by
    rw [ZMod.natCast_mod, h.x]
    show (M.x : ZMod p) = (-ℓ) ^ 2 - (ℓ ^ 2 - S.x - M.x) - S.x
    ring
  y := by
    rw [ZMod.natCast_mod, ZMod.natCast_mod, h.y]
    linear_combination hℓ

theorem chordSlope_negate {p : Nat} [Fact p.Prime] {ℓ : ZMod p} {S M R : Point} (h : ThirdPoint p ℓ S M R)
    (hx : (R.x : ZMod p) ≠ S.x) : chordSlope p R (S.negate p) = -ℓ := by
  have hp : p.Prime := Fact.out
  show ((R.y : ZMod p) - ((S.negate p).y : Nat)) / (R.x - S.x) = -ℓ
  rw [div_eq_iff (sub_ne_zero.mpr hx), natCast_negate_y hp.pos, h.y]
  ring

/-! ## The statements -/

/-- Settles O43: trial division decides Mathlib's predicate, which is that of rule R8. -/
theorem primalityIsExact : Obligations.PrimalityIsExact := by
  unfold Obligations.PrimalityIsExact
  intro n
  rw [isPrime_iff, Nat.prime_def]

/-- Settles O51: the cases of rule R152 are symmetric, and the third point of a chord does not depend on the order of
its ends. -/
theorem addCommutes : Obligations.AddCommutes := by
  unfold Obligations.AddCommutes
  intro p a P Q hp
  exact add_swap a hp P Q

/-- Settles O53: both additions are chords, and the second is the first mirrored (`ThirdPoint.subtract`). -/
theorem subtractingUndoesAdding : Obligations.SubtractingUndoesAdding := by
  unfold Obligations.SubtractingUndoesAdding
  intro p a S M R hp hSM hRS hS hM hR hneg hadd
  have : Fact p.Prime := ⟨hp⟩
  have hxSM : (S.x : ZMod p) ≠ M.x := mt (ZMod.natCast_eq_natCast_iff' _ _ p).mp hSM
  have hxRS : (R.x : ZMod p) ≠ S.x := mt (ZMod.natCast_eq_natCast_iff' _ _ p).mp hRS
  have third : ThirdPoint p (chordSlope p S M) S M R := by
    obtain ⟨R', hR', hthird⟩ := addGeneral_thirdPoint hxSM
    rw [add_of_ne_ident (fun h => hSM (congrArg (· % p) h)) hS hM, hR'] at hadd
    exact Except.ok.inj hadd ▸ hthird
  obtain ⟨R', hR', hthird⟩ := addGeneral_thirdPoint (Q := S.negate p) hxRS
  rw [chordSlope_negate third hxRS] at hthird
  have hx : R.x ≠ (S.negate p).x := fun h => hRS (congrArg (· % p) h)
  rw [add_of_ne_ident hx hR hneg, hR', hthird.unique (third.subtract hp.pos (chordSlope_mul hxSM))]

end Sys2Proof.Machine
end

section
/-! SUPPORT. The corner family: the exceptional operands of the adder, the scalar 1, points whose doubling has no
inverse, and that the loop's additions raise nothing of their own (spec/43_point_add_double.md rules R153, R158, R159;
spec/44_scalar_multiply.md rules R170 to R174). -/

namespace Sys2Proof.Machine

/-! ## Exceptional operands -/

/-- For any positive modulus, prime or not. -/
theorem dbl_of_dvd_of_pos {p a : Nat} {P : Point} (hp : 0 < p) (hne : P ≠ Point.ident) (h : p ∣ 2 * P.y) :
    dbl p a P = .error .noInverse := by
  have hzero : normP p (2 * P.y) = 0 := (normP_eq_zero_iff hp _).mpr (by exact_mod_cast h)
  have hinv : inverse p (2 * P.y) = .error .noInverse := by simp [inverse, hzero]
  simp [dbl, Point.isIdentity_iff, hne, hinv]

theorem Point.eq_ident {P : Point} (hx : P.x = 0) (hy : P.y = 0) : P = Point.ident := by
  cases P
  exact Point.mk.injEq .. |>.mpr ⟨hx, hy⟩

theorem add_ident_ident (p a : Nat) : add p a Point.ident Point.ident = .ok Point.ident := rfl

/-- The sentinel plus `Q` is `Q`, unless `Q` is one of the exceptional `(0, y)` (rule R158). -/
theorem add_ident_left {p a : Nat} {Q : Point} (h : ¬ (Q.x = 0 ∧ Q.y ≠ 0)) : add p a Point.ident Q = .ok Q := by
  by_cases hx : Q.x = 0
  · have hy : Q.y = 0 := not_not.mp fun hy => h ⟨hx, hy⟩
    rw [Point.eq_ident hx hy, add_ident_ident]
  · exact add_of_left_ident (Ne.symm hx) rfl

theorem add_ident_of_x_eq_zero {p a : Nat} {Q : Point} (hx : Q.x = 0) : add p a Point.ident Q = .ok Point.ident := by
  by_cases hy : Q.y = 0
  · rw [Point.eq_ident hx hy, add_ident_ident]
  · exact add_of_eq_x hx.symm (Ne.symm hy)

theorem negate_eq {p : Nat} (hp : 0 < p) (P : Point) : P.negate p = ⟨P.x, (p - P.y % p) % p⟩ := by
  rw [Point.negate, normP_neg hp]

/-! ## The first pass of the loop -/

theorem bits_eq_cons_of_pos {k : Nat} (h : 0 < k) : ∃ b bs, Nat.bits k = b :: bs := by
  cases hbits : Nat.bits k with
  | nil =>
    have hsize : Nat.size k = 0 := by rw [← Nat.size_eq_bits_len, hbits, List.length_nil]
    exact absurd (Nat.size_eq_zero.mp hsize) h.ne'
  | cons b bs => exact ⟨b, bs, rfl⟩

/-- A pass fails when its doubling does, whatever its addition does. -/
theorem bitPass_of_dbl_error {p a : Nat} {m : Point × Point} {b : Bool} (h : dbl p a m.2 = .error .noInverse) :
    bitPass p a m b = .error .noInverse := by
  cases b with
  | false =>
    simp only [bitPass, h]
    rfl
  | true =>
    cases hadd : add p a m.1 m.2 with
    | ok r =>
      simp only [bitPass, hadd, h]
      rfl
    | error e =>
      obtain rfl := add_error hadd
      simp only [bitPass, hadd]
      rfl

theorem mul_of_dbl_error {p a k : Nat} {P : Point} (h : dbl p a P = .error .noInverse) (hk : 0 < k) :
    mul p a k P = .error .noInverse := by
  obtain ⟨b, bs, hbits⟩ := bits_eq_cons_of_pos hk
  rw [mul_eq_foldlM, hbits, List.foldlM_cons, bitPass_of_dbl_error h]
  rfl

/-- The one pass of `mul(1, P)`: its addition's answer, when its doubling has one. -/
theorem mul_one_eq {p a : Nat} {P R D : Point} (hadd : add p a Point.ident P = .ok R) (hdbl : dbl p a P = .ok D) :
    mul p a 1 P = .ok R := by
  have hpass : bitPass p a (Point.ident, P) true = .ok (R, D) := bitPass_eq_ok.mpr ⟨hadd, hdbl⟩
  rw [mul_eq_foldlM, Nat.one_bits, List.foldlM_cons, hpass]
  rfl

/-! ## The loop of a reduced point whose doublings succeed -/

/-- Two reduced pairs that are added by a chord differ in x modulo `p`, so the only addition that can fail is the one
that is a doubling. -/
theorem add_ok_of_dbl_ok {p a : Nat} {P Q D : Point} (hp : p.Prime) (hP : P.reduced p) (hQ : Q.reduced p)
    (h : dbl p a Q = .ok D) : ∃ R, add p a P Q = .ok R := by
  cases add_cases p a P Q with
  | same heq hadd => exact ⟨D, by rw [hadd, heq, h]⟩
  | opposite _ _ hadd | left _ _ hadd | right _ _ hadd => exact ⟨_, hadd⟩
  | general hx _ _ hadd =>
    have hmod : P.x % p ≠ Q.x % p := by rwa [Nat.mod_eq_of_lt hP.1, Nat.mod_eq_of_lt hQ.1]
    obtain ⟨_, _, x3, y3, -, -, -, -, -, hok⟩ := addGeneral_of_mod_ne hp hmod
    exact ⟨_, hadd.trans hok⟩

theorem doublings_succ (p a : Nat) (P : Point) (n : Nat) :
    doublings p a P (n + 1) = doublings p a P n >>= dbl p a := by
  rw [doublings]
  cases doublings p a P n <;> rfl

/-- The first doubling taken off; `doublings` takes the last off. -/
theorem doublings_succ_first (p a : Nat) (P : Point) (n : Nat) :
    doublings p a P (n + 1) = dbl p a P >>= fun Q => doublings p a Q n := by
  induction n with
  | zero => exact (bind_pure (dbl p a P)).symm
  | succ n ih =>
    rw [doublings_succ, ih, bind_assoc]
    simp only [doublings_succ]

theorem foldlM_bitPass_ok {p a : Nat} (hp : p.Prime) {bs : List Bool} {m : Point × Point} {D : Point}
    (hm : m.1.reduced p ∧ m.2.reduced p) (hD : doublings p a m.2 bs.length = .ok D) :
    ∃ n, bs.foldlM (bitPass p a) m = .ok n := by
  induction bs generalizing m with
  | nil => exact ⟨m, rfl⟩
  | cons b bs ih =>
    rw [List.length_cons, doublings_succ_first] at hD
    obtain ⟨Q, hdbl, hrest⟩ := bind_eq_ok.mp hD
    have hadd : ∃ R, (if b then add p a m.1 m.2 else .ok m.1) = .ok R := by
      cases b with
      | false => exact ⟨m.1, rfl⟩
      | true => exact add_ok_of_dbl_ok hp hm.1 hm.2 hdbl
    obtain ⟨R, hR⟩ := hadd
    have hpass : bitPass p a m b = .ok (R, Q) := bitPass_eq_ok.mpr ⟨hR, hdbl⟩
    rw [List.foldlM_cons, hpass]
    exact ih (bitPass_reduced hp.pos le_rfl hm hpass) hrest

theorem mul_ok_of_doublings {p a k : Nat} {P D : Point} (hp : p.Prime) (hP : P.reduced p)
    (hD : doublings p a P (Nat.size k) = .ok D) : ∃ R, mul p a k P = .ok R := by
  rw [← Nat.size_eq_bits_len] at hD
  obtain ⟨n, hn⟩ := foldlM_bitPass_ok hp (m := (Point.ident, P)) ⟨Point.reduced_ident hp.pos, hP⟩ hD
  exact ⟨n.1, by rw [mul_eq_foldlM, hn]; rfl⟩

/-! ## The statements -/

/-- Settles O47: an addition of the loop can only fail as a doubling of the addend, which its pass makes too
(`add_ok_of_dbl_ok`). -/
theorem pmulCompletesWhenDoublingsDo : Obligations.PmulCompletesWhenDoublingsDo := by
  unfold Obligations.PmulCompletesWhenDoublingsDo
  intro s rd ra D hv hp hP hD
  obtain ⟨R, hR⟩ := mul_ok_of_doublings hp hP hD
  exact ⟨R, mul_reduced hp.pos le_rfl hP hR, exec_of_effect (.pmul rd ra R hv hR)⟩

/-- Settles O49: `mul(1, P)` is the sentinel plus `P`, and a doubling that fails fails in the first pass. -/
theorem mulContracts : Obligations.MulContracts := by
  unfold Obligations.MulContracts
  intro p a k P
  refine ⟨mul_of_zero_or_ident (.inl rfl), mul_ident p a k, ?_, ?_, ?_⟩
  · intro D hdbl hx
    exact mul_one_eq (add_ident_left fun h => hx h.1) hdbl
  · intro D hdbl hx
    exact mul_one_eq (add_ident_of_x_eq_zero hx) hdbl
  · intro hp hdvd hne hk
    exact mul_of_dbl_error (dbl_of_dvd_of_pos hp hne hdvd) hk

/-- Settles O52: the sentinel and a `(0, y)` share their x, `(x, 0)` is its own negative and has no tangent, and the
negative of `(x, y)` is `(x, p - y)`. -/
theorem exceptionalOperands : Obligations.ExceptionalOperands := by
  unfold Obligations.ExceptionalOperands
  intro p a x y hp
  refine ⟨?_, ?_, rfl, ?_⟩
  · intro hy
    exact ⟨add_of_eq_x rfl hy.symm, add_of_eq_x rfl hy⟩
  · intro hx
    have hneg : (⟨x, 0⟩ : Point).negate p = ⟨x, 0⟩ := by simp [negate_eq hp]
    have hne : (⟨x, 0⟩ : Point) ≠ Point.ident := fun h => hx (congrArg Point.x h)
    have hself : add p a ⟨x, 0⟩ ⟨x, 0⟩ = .error .noInverse := by
      rw [add_self]
      exact dbl_of_dvd_of_pos hp hne (dvd_zero p)
    exact ⟨hneg, hself, by rw [hneg, hself]⟩
  · intro hy hlt
    have hneg : (⟨x, y⟩ : Point).negate p = ⟨x, p - y⟩ := by
      rw [negate_eq hp, Nat.mod_eq_of_lt hlt, Nat.mod_eq_of_lt (Nat.sub_lt hp hy)]
    rw [hneg, add_self]

end Sys2Proof.Machine
end

section
/-! SUPPORT. The group family, the refinement: outside the exceptional operands the adder is the addition of Mathlib's
group of the curve, and the multiplier its scalar multiple (spec/43_point_add_double.md rules R157, R158;
spec/44_scalar_multiply.md rule R176). -/

namespace Sys2Proof.Machine

/-! ## The curve -/

section
variable {p a b : Nat} [Fact p.Prime] {x y : ZMod p} {P Q R : Point}

theorem curveOf_equation_iff : (curveOf p a b).Equation x y ↔ y ^ 2 = x ^ 3 + a * x + b := by
  simp [WeierstrassCurve.Affine.equation_iff, curveOf]

theorem curveOf_negY : (curveOf p a b).negY x y = -y := by
  simp [WeierstrassCurve.Affine.negY, curveOf]

theorem two_ne_zero_of_odd (hp2 : p ≠ 2) : (2 : ZMod p) ≠ 0 := by
  have hp : p.Prime := Fact.out
  intro h
  have hdvd : p ∣ 2 := (ZMod.natCast_eq_zero_iff 2 p).mp (by exact_mod_cast h)
  exact hp2 ((Nat.prime_dvd_prime_iff_eq hp Nat.prime_two).mp hdvd)

/-! ## Pairs that denote points -/

theorem denotes_zero_iff : denotes P (0 : (curveOf p a b).Point) ↔ P = Point.ident := Iff.rfl

theorem denotes_some_iff {h : (curveOf p a b).Nonsingular x y} :
    denotes P (.some x y h) ↔ P.reduced p ∧ (P.x : ZMod p) = x ∧ (P.y : ZMod p) = y := Iff.rfl

/-- With `b` not 0 modulo `p` the sentinel is on no curve. -/
theorem ne_ident_of_denotes_some (hb : b % p ≠ 0) {h : (curveOf p a b).Nonsingular x y}
    (hP : denotes P (.some x y h)) : P ≠ Point.ident := by
  rintro rfl
  obtain ⟨-, hx, hy⟩ := hP
  have heq := curveOf_equation_iff.mp h.1
  rw [← hx, ← hy] at heq
  have hzero : (b : ZMod p) = 0 := by simpa [Point.ident] using heq.symm
  exact hb (Nat.mod_eq_zero_of_dvd ((ZMod.natCast_eq_zero_iff b p).mp hzero))

theorem eq_zero_of_denotes_ident {X : (curveOf p a b).Point} (hb : b % p ≠ 0) (h : denotes Point.ident X) : X = 0 := by
  cases X with
  | zero => rfl
  | some x y hns => exact absurd rfl (ne_ident_of_denotes_some hb h)

/-! ## The adder on finite points -/

theorem ThirdPoint.denotes {ℓ x₁ x₂ y₁ : ZMod p} (hx₁ : (P.x : ZMod p) = x₁) (hx₂ : (Q.x : ZMod p) = x₂)
    (hy₁ : (P.y : ZMod p) = y₁) (h : ThirdPoint p ℓ P Q R)
    {hns : (curveOf p a b).Nonsingular ((curveOf p a b).addX x₁ x₂ ℓ) ((curveOf p a b).addY x₁ x₂ y₁ ℓ)} :
    Machine.denotes R (.some _ _ hns) := by
  have hx : (R.x : ZMod p) = (curveOf p a b).addX x₁ x₂ ℓ := by
    rw [h.x, hx₁, hx₂]
    simp [WeierstrassCurve.Affine.addX, curveOf]
  refine ⟨h.reduced, hx, ?_⟩
  rw [h.y, WeierstrassCurve.Affine.addY, curveOf_negY, WeierstrassCurve.Affine.negAddY, ← hx, hx₁, hy₁]
  ring

theorem add_denotes_of_x_ne {x₁ y₁ x₂ y₂ : ZMod p} (hb : b % p ≠ 0) {h₁ : (curveOf p a b).Nonsingular x₁ y₁}
    {h₂ : (curveOf p a b).Nonsingular x₂ y₂} (hP : denotes P (.some x₁ y₁ h₁)) (hQ : denotes Q (.some x₂ y₂ h₂))
    (hne : x₁ ≠ x₂) :
    ∃ R, add p a P Q = .ok R ∧ denotes R (WeierstrassCurve.Affine.Point.some x₁ y₁ h₁ + .some x₂ y₂ h₂) := by
  have hPi := ne_ident_of_denotes_some hb hP
  have hQi := ne_ident_of_denotes_some hb hQ
  obtain ⟨-, rfl, rfl⟩ := hP
  obtain ⟨-, rfl, rfl⟩ := hQ
  obtain ⟨R, hR, hthird⟩ := addGeneral_thirdPoint hne
  have hx : P.x ≠ Q.x := fun h => hne (congrArg Nat.cast h)
  refine ⟨R, (add_of_ne_ident hx hPi hQi).trans hR, ?_⟩
  rw [WeierstrassCurve.Affine.Point.add_of_X_ne hne]
  rw [chordSlope, ← WeierstrassCurve.Affine.slope_of_X_ne (W := curveOf p a b) hne] at hthird
  exact hthird.denotes rfl rfl rfl

theorem dbl_denotes (hp2 : p ≠ 2) {h : (curveOf p a b).Nonsingular x y} (hP : denotes P (.some x y h))
    (hy : P.y ≠ 0) : ∃ R, dbl p a P = .ok R ∧ denotes R (WeierstrassCurve.Affine.Point.some x y h + .some x y h) := by
  obtain ⟨hred, rfl, rfl⟩ := hP
  have hy0 : (P.y : ZMod p) ≠ 0 := fun h0 => hy (eq_of_natCast_eq hred.2 (NeZero.pos p) (by simpa using h0))
  have h2y : 2 * (P.y : ZMod p) ≠ 0 := mul_ne_zero (two_ne_zero_of_odd hp2) hy0
  have hnegY : (P.y : ZMod p) ≠ (curveOf p a b).negY P.x P.y := by
    rw [curveOf_negY]
    intro heq
    exact h2y (by linear_combination heq)
  obtain ⟨R, hR, hthird⟩ := dbl_thirdPoint a h2y
  refine ⟨R, hR, ?_⟩
  have hslope : tangentSlope p a P = (curveOf p a b).slope P.x P.x P.y P.y := by
    rw [WeierstrassCurve.Affine.slope_of_Y_ne rfl hnegY, curveOf_negY, tangentSlope]
    simp [curveOf, two_mul]
  rw [WeierstrassCurve.Affine.Point.add_self_of_Y_ne hnegY]
  rw [hslope] at hthird
  exact hthird.denotes rfl rfl rfl

/-- Two finite points: the chord, the tangent, or points opposite to each other. -/
theorem add_denotes_some {x₁ y₁ x₂ y₂ : ZMod p} (hp2 : p ≠ 2) (hb : b % p ≠ 0)
    {h₁ : (curveOf p a b).Nonsingular x₁ y₁} {h₂ : (curveOf p a b).Nonsingular x₂ y₂}
    (hP : denotes P (.some x₁ y₁ h₁)) (hQ : denotes Q (.some x₂ y₂ h₂)) (hord : ¬ (P = Q ∧ P.x ≠ 0 ∧ P.y = 0)) :
    ∃ R, add p a P Q = .ok R ∧ denotes R (WeierstrassCurve.Affine.Point.some x₁ y₁ h₁ + .some x₂ y₂ h₂) := by
  by_cases hx : x₁ = x₂
  case neg => exact add_denotes_of_x_ne hb hP hQ hx
  subst hx
  obtain ⟨hPred, hPx, hPy⟩ := denotes_some_iff.mp hP
  obtain ⟨hQred, hQx, hQy⟩ := denotes_some_iff.mp hQ
  have hxeq : P.x = Q.x := eq_of_natCast_eq hPred.1 hQred.1 (hPx.trans hQx.symm)
  by_cases hy : y₁ = y₂
  · subst hy
    obtain rfl : P = Q := Point.eq_of_natCast_eq hPred hQred (hPx.trans hQx.symm) (hPy.trans hQy.symm)
    have hPy0 : P.y ≠ 0 := fun h0 =>
      ne_ident_of_denotes_some hb hP (Point.eq_ident (not_not.mp fun hx0 => hord ⟨rfl, hx0, h0⟩) h0)
    rw [add_self]
    exact dbl_denotes hp2 hP hPy0
  · have hyne : P.y ≠ Q.y := fun heq => hy (by rw [← hPy, ← hQy, heq])
    have hneg : y₁ = (curveOf p a b).negY x₁ y₂ :=
      (WeierstrassCurve.Affine.Y_eq_of_X_eq h₁.1 h₂.1 rfl).resolve_left hy
    refine ⟨Point.ident, add_of_eq_x hxeq hyne, ?_⟩
    rw [WeierstrassCurve.Affine.Point.add_of_Y_eq rfl hneg]
    exact denotes_zero_iff.mpr rfl

/-- Rule R157, with the exceptional operands of rule R158 shut out. -/
theorem add_denotes {X Y : (curveOf p a b).Point} (hp2 : p ≠ 2) (hb : b % p ≠ 0) (hP : denotes P X) (hQ : denotes Q Y)
    (hleft : ¬ (P = Point.ident ∧ Q.x = 0 ∧ Q.y ≠ 0)) (hright : ¬ (Q = Point.ident ∧ P.x = 0 ∧ P.y ≠ 0))
    (hord : ¬ (P = Q ∧ P.x ≠ 0 ∧ P.y = 0)) : ∃ R, add p a P Q = .ok R ∧ denotes R (X + Y) := by
  cases X with
  | zero =>
    obtain rfl : P = Point.ident := hP
    have hadd : add p a Point.ident Q = .ok Q := add_ident_left fun h => hleft ⟨rfl, h⟩
    exact ⟨Q, hadd, (zero_add Y).symm ▸ hQ⟩
  | some x₁ y₁ h₁ =>
    cases Y with
    | zero =>
      obtain rfl : Q = Point.ident := hQ
      have hadd : add p a Point.ident P = .ok P := add_ident_left fun h => hright ⟨rfl, h⟩
      have hsum := add_zero (WeierstrassCurve.Affine.Point.some x₁ y₁ h₁)
      exact ⟨P, (add_swap a Fact.out P _).trans hadd, hsum.symm ▸ hP⟩
    | some x₂ y₂ h₂ => exact add_denotes_some hp2 hb hP hQ hord

/-! ## The multiplier -/

/-- A pair that no pass of the loop can stumble over: the sentinel, or both coordinates not 0. -/
def Point.regular (P : Point) : Prop := P = Point.ident ∨ (P.x ≠ 0 ∧ P.y ≠ 0)

theorem dbl_denotes_of_regular {Y : (curveOf p a b).Point} (hp2 : p ≠ 2) (hb : b % p ≠ 0) (hQ : denotes Q Y)
    (hreg : Q.regular) : ∃ R, dbl p a Q = .ok R ∧ denotes R (2 • Y) := by
  have hexc : ¬ (Q = Point.ident ∧ Q.x = 0 ∧ Q.y ≠ 0) := by
    rintro ⟨rfl, -, hy⟩
    exact hy rfl
  have hord : ¬ (Q = Q ∧ Q.x ≠ 0 ∧ Q.y = 0) := by
    rintro ⟨-, hx, hy⟩
    rcases hreg with rfl | ⟨-, hy'⟩
    · exact hx rfl
    · exact hy' hy
  rw [two_smul, ← add_self]
  exact add_denotes hp2 hb hQ hQ hexc hexc hord

/-- A point of order 2 has y = 0, so a regular point has none. -/
theorem eq_zero_of_two_smul {Y : (curveOf p a b).Point} (hp2 : p ≠ 2) (hb : b % p ≠ 0) (hQ : denotes Q Y)
    (hreg : Q.regular) (h : 2 • Y = 0) : Y = 0 := by
  cases Y with
  | zero => rfl
  | some x y hns =>
    exfalso
    rw [two_smul, add_eq_zero_iff_eq_neg, WeierstrassCurve.Affine.Point.neg_some,
      WeierstrassCurve.Affine.Point.some.injEq, curveOf_negY] at h
    have hy : y = 0 := by
      have h2y : 2 * y = 0 := by linear_combination h.2
      exact (mul_eq_zero.mp h2y).resolve_left (two_ne_zero_of_odd hp2)
    obtain ⟨hred, -, hQy⟩ := denotes_some_iff.mp hQ
    rcases hreg with rfl | ⟨-, hy0⟩
    · exact ne_ident_of_denotes_some hb hQ rfl
    · exact hy0 (eq_of_natCast_eq hred.2 (NeZero.pos p) (by simpa [hy] using hQy))

/-- One pass: the result gains the addend when the bit is 1, the addend doubles. That the addend is the sentinel only
when the result is shuts out the exceptional operand `(0, y)` on the left. -/
theorem bitPass_denotes {X Y : (curveOf p a b).Point} {c : Bool} (hp2 : p ≠ 2) (hb : b % p ≠ 0) (hR : denotes R X)
    (hQ : denotes Q Y) (hreg : Q.regular) (hzero : Y = 0 → X = 0) :
    ∃ m, bitPass p a (R, Q) c = .ok m ∧ denotes m.1 (X + c.toNat • Y) ∧ denotes m.2 (2 • Y) := by
  obtain ⟨D, hdbl, hD⟩ := dbl_denotes_of_regular hp2 hb hQ hreg
  have hadd : ∃ S, (if c then add p a R Q else .ok R) = .ok S ∧ denotes S (X + c.toNat • Y) := by
    cases c with
    | false => exact ⟨R, rfl, by simpa using hR⟩
    | true =>
      rw [if_pos rfl, Bool.toNat_true, one_smul]
      refine add_denotes hp2 hb hR hQ ?_ ?_ ?_
      · rintro ⟨-, hx, hy⟩
        rcases hreg with rfl | ⟨hx', -⟩
        · exact hy rfl
        · exact hx' hx
      · rintro ⟨rfl, -, hy⟩
        rw [hzero (eq_zero_of_denotes_ident hb hQ), denotes_zero_iff] at hR
        exact hy (congrArg Point.y hR)
      · rintro ⟨rfl, hx, hy⟩
        rcases hreg with rfl | ⟨-, hy'⟩
        · exact hx rfl
        · exact hy' hy
  obtain ⟨S, hS, hSX⟩ := hadd
  exact ⟨(S, D), bitPass_eq_ok.mpr ⟨hS, hdbl⟩, hSX, hD⟩

/-- The loop adds `k` times the addend to the result. -/
theorem foldlM_bitPass_denotes {X Y : (curveOf p a b).Point} {k : Nat} (hp2 : p ≠ 2) (hb : b % p ≠ 0)
    (hR : denotes R X) (hQ : denotes Q Y) (hzero : Y = 0 → X = 0)
    (hreg : ∀ j, j < Nat.size k → ∀ A, denotes A ((2 ^ j) • Y) → A.regular) :
    ∃ m, (Nat.bits k).foldlM (bitPass p a) (R, Q) = .ok m ∧ denotes m.1 (X + k • Y) := by
  induction k using Nat.binaryRec' generalizing R Q X Y with
  | zero => exact ⟨(R, Q), rfl, by simpa using hR⟩
  | bit c n h ih =>
    have hsize : Nat.size (n.bit c) = Nat.size n + 1 := Nat.size_bit (Nat.bit_ne_zero_iff.mpr h)
    have hQreg : Q.regular := hreg 0 (by omega) Q (by simpa using hQ)
    obtain ⟨m, hpass, hm1, hm2⟩ := bitPass_denotes (c := c) hp2 hb hR hQ hQreg hzero
    have hzero' : 2 • Y = 0 → X + c.toNat • Y = 0 := by
      intro h2
      have hY : Y = 0 := eq_zero_of_two_smul hp2 hb hQ hQreg h2
      rw [hzero hY, hY, nsmul_zero, add_zero]
    have hreg' : ∀ j, j < Nat.size n → ∀ A, denotes A ((2 ^ j) • 2 • Y) → A.regular := by
      intro j hj A hA
      refine hreg (j + 1) (by omega) A ?_
      rwa [pow_succ, mul_smul]
    obtain ⟨q, hfold, hq⟩ := ih hm1 hm2 hzero' hreg'
    refine ⟨q, ?_, ?_⟩
    · rw [Nat.bits_append_bit n c h, List.foldlM_cons, hpass]
      exact hfold
    · have hsum : X + c.toNat • Y + n • 2 • Y = X + (n.bit c) • Y := by
        rw [add_assoc, smul_smul, ← add_smul, Nat.bit_val, Nat.add_comm, Nat.mul_comm]
      rwa [hsum] at hq

end

/-! ## The statements -/

/-- Settles O54: the cases of rule R152 on pairs that denote points are the cases of Mathlib's addition. -/
theorem addIsTheGroupLaw : Obligations.AddIsTheGroupLaw := by
  unfold Obligations.AddIsTheGroupLaw
  intro p a b _ P Q X Y hp2 hb hP hQ hleft hright hord
  exact add_denotes hp2 hb hP hQ hleft hright hord

/-- Settles O55: by induction on the bits of the scalar; no multiple by a power of two has order 2, so the addend never
becomes the sentinel before the result is. -/
theorem mulIsTheGroupMultiple : Obligations.MulIsTheGroupMultiple := by
  unfold Obligations.MulIsTheGroupMultiple
  intro p a b k _ P X hp2 hb hP hreg
  obtain ⟨m, hfold, hm⟩ := foldlM_bitPass_denotes hp2 hb (denotes_zero_iff.mpr rfl) hP (fun _ => rfl) hreg
  exact ⟨m.1, by rw [mul_eq_foldlM, hfold]; rfl, by rwa [zero_add] at hm⟩

end Sys2Proof.Machine
end
